-- ==== Sys2Proof/Word.lean ====
section
/-! DEFINITION. The word types of H2FD: bytes, 32-bit register words, and the 9-byte block that HDR_BUF and ENC hold. -/

namespace Sys2Proof

/-- One byte of a frame or of PAYLOAD (spec R63, R69). -/
abbrev Byte := BitVec 8

/-- One 32-bit register word (spec R22, section 4 of `10_state.md`). -/
abbrev Word := BitVec 32

/-- Exactly nine bytes, byte 0 first on the wire (spec R7, R81): the shape of HDR_BUF (R24) and of ENC (R28).
"Input must be exactly 9 bytes" (R120) holds by the type. -/
structure Bytes9 where
  b0 : Byte
  b1 : Byte
  b2 : Byte
  b3 : Byte
  b4 : Byte
  b5 : Byte
  b6 : Byte
  b7 : Byte
  b8 : Byte
deriving DecidableEq, Repr

/-- Nine zero bytes. -/
def Bytes9.zero : Bytes9 := ⟨0, 0, 0, 0, 0, 0, 0, 0, 0⟩

end Sys2Proof
end

