-- ==== Sys2Proof/Config.lean ====
section
/-! DEFINITION. The implementation parameters of spec section 4 of `00_scope.md` (R6, R288) as plain data, and the model's one
free value. A build's parameters stand in `State.params`, which no step changes (log 3), so that a claim quantifies over builds. -/

namespace Sys2Proof

/-- `P_SETTINGS_PARTIAL` (spec R202): what a Settings payload whose length is no multiple of 6 does. -/
inductive SettingsPartial where
  | truncate
  | reject
deriving DecidableEq, Repr

/-- `P_RST_CHECK_ORDER` (spec R190): which RstStream check is made first. -/
inductive RstCheckOrder where
  | sizeFirst
  | idFirst
deriving DecidableEq, Repr

/-- The constants `TYPE_DATA` .. `TYPE_CONTINUATION` (spec R84), with the defaults of its table. -/
structure TypeValues where
  data         : Byte := 0x00
  headers      : Byte := 0x01
  priority     : Byte := 0x02
  rstStream    : Byte := 0x03
  settings     : Byte := 0x04
  pushPromise  : Byte := 0x05
  ping         : Byte := 0x06
  goAway       : Byte := 0x07
  windowUpdate : Byte := 0x08
  continuation : Byte := 0x09
deriving DecidableEq, Repr

/-- The constants `FLAG_*` (spec R88), with the defaults given there. -/
structure FlagValues where
  endStream  : Byte := 0x01
  ack        : Byte := 0x01
  endHeaders : Byte := 0x04
  padded     : Byte := 0x08
  priority   : Byte := 0x20
deriving DecidableEq, Repr

/-- The parameters of one build (spec `00_scope.md` section 4). `payloadCap` has 24 bits, so it ranges over 0 .. 16777215
exactly. `P_REG_BASE` and `P_INSTANCES` belong to the platform (`Machine/Platform.lean`). -/
structure Params where
  payloadCap      : BitVec 24 := 16777215
  settingsPartial : SettingsPartial := .truncate
  rstCheckOrder   : RstCheckOrder := .sizeFirst
  errProtocol     : Word := 0x1
  errFrameSize    : Word := 0x6
  types           : TypeValues := {}
  flags           : FlagValues := {}
deriving DecidableEq, Repr

/-- FREE VALUE (spec R27, `93_implementation_defined.md` I5, "a read returns a draw"; log 1): the byte that a PAYLOAD address
holds after reset while nothing has written it, by the number of resets the machine has seen and the address. It has no body,
so no proof can see a value of it. It does not depend on when the byte is read: reads are idempotent (R70). -/
opaque Config.payloadDraw : Nat → Nat → Byte

end Sys2Proof
end

