-- ==== Sys2Proof/Syntax.lean ====
section
/-! DEFINITION. The instructions of H2FD: one constructor for every mnemonic of `spec/opcode_table.json`. -/

namespace Sys2Proof

/-- The rows of `spec/opcode_table.json`. The first eight are CTRL commands (spec R96); the others are the targets the dispatcher
selects from the type byte of a frame (spec R84). PASS_UNKNOWN's six rows only cut the range 0x0A .. 0xFF of the spec's one
table line into masks, so they are one constructor that keeps the type byte (log 4). -/
inductive Instr where
  /-- NOP, CMD 0 (R44, R97). -/
  | nop
  /-- READ_FRAME, CMD 1 (R135). -/
  | readFrame
  /-- DECODE_HEADER, CMD 2 (R121). -/
  | decodeHeader
  /-- PARSE, CMD 3 (R145). -/
  | parse
  /-- ENCODE_HEADER, CMD 4 (R125). -/
  | encodeHeader
  /-- RESERVED_5, CMD 5 (R44, R97). -/
  | reserved5
  /-- RESERVED_6, CMD 6 (R44, R97). -/
  | reserved6
  /-- RESERVED_7, CMD 7 (R44, R97). -/
  | reserved7
  /-- PARSE_DATA, type 0x00 (R166). -/
  | parseData
  /-- PARSE_HEADERS, type 0x01 (R172). -/
  | parseHeaders
  /-- PARSE_PRIORITY, type 0x02 (R185). -/
  | parsePriority
  /-- PARSE_RST_STREAM, type 0x03 (R190). -/
  | parseRstStream
  /-- PARSE_SETTINGS, type 0x04 (R200). -/
  | parseSettings
  /-- PARSE_PUSH_PROMISE, type 0x05 (R210). -/
  | parsePushPromise
  /-- PASS_UNPARSED_PING, type 0x06 (R226). -/
  | passUnparsedPing
  /-- PASS_UNPARSED_GOAWAY, type 0x07 (R226). -/
  | passUnparsedGoaway
  /-- PASS_UNPARSED_WINDOW_UPDATE, type 0x08 (R226). -/
  | passUnparsedWindowUpdate
  /-- PASS_UNPARSED_CONTINUATION, type 0x09 (R226). -/
  | passUnparsedContinuation
  /-- PASS_UNKNOWN, every other type byte `t` (R85, R227). -/
  | passUnknown (t : Byte)
deriving DecidableEq, Repr

end Sys2Proof
end

