-- ==== Sys2Proof/WellFormed.lean ====
section
/-! DEFINITION. What a well-formed instruction is, and a well-formed choice of the type constants. -/

namespace Sys2Proof

/-- The ten named type values (spec R84). -/
def TypeValues.codes (tv : TypeValues) : List Byte :=
  [tv.data, tv.headers, tv.priority, tv.rstStream, tv.settings, tv.pushPromise, tv.ping, tv.goAway, tv.windowUpdate,
    tv.continuation]

/-- A choice of the `TYPE_*` parameters is sound when the ten types have ten values (spec R84: a closed set of types). -/
abbrev TypeValues.wf (tv : TypeValues) : Prop := tv.codes.Nodup

/-- An instruction is well-formed for a choice of type values: PASS_UNKNOWN carries a type byte that is none of the named ones
(spec R84, last line of the table, R85). No other instruction has an operand. -/
def Instr.wfFor (tv : TypeValues) : Instr → Bool
  | .passUnknown t => !tv.codes.contains t
  | .nop | .readFrame | .decodeHeader | .parse | .encodeHeader | .reserved5 | .reserved6 | .reserved7 => true
  | .parseData | .parseHeaders | .parsePriority | .parseRstStream | .parseSettings | .parsePushPromise => true
  | .passUnparsedPing | .passUnparsedGoaway | .passUnparsedWindowUpdate | .passUnparsedContinuation => true

/-- Well-formed for the type values of `spec/opcode_table.json`. -/
def Instr.wf (i : Instr) : Bool := i.wfFor {}

end Sys2Proof
end

