-- ==== Sys2Proof/Decode.lean ====
section
/-! DEFINITION. The two encodings of H2FD (spec `30_encoding.md`: format CTRL, rule R96; format FRAME_TYPE, rule R84), the decoder
and the encoder. No word of either format is illegal: every 32-bit word decodes (R97) and every type byte decodes (R85). -/

namespace Sys2Proof

/-- What carries an instruction: a command word written to CTRL (32 bits, R96), or the type byte of a frame (8 bits, R84). -/
inductive Encoding where
  | ctrl (w : Word)
  | frameType (b : Byte)
deriving DecidableEq, Repr

/-- The CTRL command word: only bits [2:0] are decoded (R96); bits [31:3] are ignored (R97). -/
def decodeCtrl (w : Word) : Instr :=
  match (w.extractLsb' 0 3).toNat with
  | 0 => .nop
  | 1 => .readFrame
  | 2 => .decodeHeader
  | 3 => .parse
  | 4 => .encodeHeader
  | 5 => .reserved5
  | 6 => .reserved6
  | _ => .reserved7

/-- The dispatcher's table (R84), a function of the type byte alone (R86). -/
def decodeFrameType (tv : TypeValues) (t : Byte) : Instr :=
  if t = tv.data then .parseData
  else if t = tv.headers then .parseHeaders
  else if t = tv.priority then .parsePriority
  else if t = tv.rstStream then .parseRstStream
  else if t = tv.settings then .parseSettings
  else if t = tv.pushPromise then .parsePushPromise
  else if t = tv.ping then .passUnparsedPing
  else if t = tv.goAway then .passUnparsedGoaway
  else if t = tv.windowUpdate then .passUnparsedWindowUpdate
  else if t = tv.continuation then .passUnparsedContinuation
  else .passUnknown t

/-- The decoder, total on both formats. -/
def decode (tv : TypeValues) : Encoding → Instr
  | .ctrl w => decodeCtrl w
  | .frameType b => decodeFrameType tv b

/-- Why bits that were handed over as a bare number are no instruction of either format. -/
inductive DecodeError where
  /-- The number does not fit the width it is said to have. -/
  | valueTooWide
  /-- The width is that of neither format: no bits, or more than the 32 bits of a command word. -/
  | notAFormat
deriving DecidableEq, Repr

/-- Bits handed over as a number of a width. A type byte has exactly 8 bits (R84); any other width up to 32 is a CTRL word, whose
missing upper bits are 0 and ignored (R96, R97). The two formats are told apart by the width alone (log 5). -/
def decodeBits (tv : TypeValues) (nbits w : Nat) : Except DecodeError Instr :=
  if nbits = 0 ∨ 32 < nbits then .error .notAFormat
  else if 2 ^ nbits ≤ w then .error .valueTooWide
  else if nbits = 8 then .ok (decode tv (.frameType (BitVec.ofNat 8 w)))
  else .ok (decode tv (.ctrl (BitVec.ofNat 32 w)))

/-- The instruction of an opcode-table row's word, at the table's own type values. -/
def decodeTableWord (nbits w : Nat) : Option Instr :=
  match decodeBits {} nbits w with
  | .ok i => some i
  | .error _ => none

/-- The encoder, written from the same two tables. A command word's ignored bits are written 0 (R100). -/
def encode (tv : TypeValues) : Instr → Encoding
  | .nop => .ctrl 0
  | .readFrame => .ctrl 1
  | .decodeHeader => .ctrl 2
  | .parse => .ctrl 3
  | .encodeHeader => .ctrl 4
  | .reserved5 => .ctrl 5
  | .reserved6 => .ctrl 6
  | .reserved7 => .ctrl 7
  | .parseData => .frameType tv.data
  | .parseHeaders => .frameType tv.headers
  | .parsePriority => .frameType tv.priority
  | .parseRstStream => .frameType tv.rstStream
  | .parseSettings => .frameType tv.settings
  | .parsePushPromise => .frameType tv.pushPromise
  | .passUnparsedPing => .frameType tv.ping
  | .passUnparsedGoaway => .frameType tv.goAway
  | .passUnparsedWindowUpdate => .frameType tv.windowUpdate
  | .passUnparsedContinuation => .frameType tv.continuation
  | .passUnknown t => .frameType t

/-! ### The opcode table as data -/

/-- The mnemonic of an instruction in `spec/opcode_table.json`. -/
def Instr.mnemonic : Instr → String
  | .nop => "NOP"
  | .readFrame => "READ_FRAME"
  | .decodeHeader => "DECODE_HEADER"
  | .parse => "PARSE"
  | .encodeHeader => "ENCODE_HEADER"
  | .reserved5 => "RESERVED_5"
  | .reserved6 => "RESERVED_6"
  | .reserved7 => "RESERVED_7"
  | .parseData => "PARSE_DATA"
  | .parseHeaders => "PARSE_HEADERS"
  | .parsePriority => "PARSE_PRIORITY"
  | .parseRstStream => "PARSE_RST_STREAM"
  | .parseSettings => "PARSE_SETTINGS"
  | .parsePushPromise => "PARSE_PUSH_PROMISE"
  | .passUnparsedPing => "PASS_UNPARSED_PING"
  | .passUnparsedGoaway => "PASS_UNPARSED_GOAWAY"
  | .passUnparsedWindowUpdate => "PASS_UNPARSED_WINDOW_UPDATE"
  | .passUnparsedContinuation => "PASS_UNPARSED_CONTINUATION"
  | .passUnknown _ => "PASS_UNKNOWN"

/-- The two formats of the table. -/
inductive Format where
  | ctrl
  | frameType
deriving DecidableEq, Repr

/-- One row of the table: a word of the format belongs to the row when its masked bits are the pattern. -/
structure Row where
  mnemonic : String
  format   : Format
  pattern  : Nat
  mask     : Nat
deriving DecidableEq, Repr

/-- The rows of format CTRL, as `spec/opcode_table.json` writes them. -/
def ctrlRows : List Row :=
  [⟨"NOP", .ctrl, 0x0, 0x7⟩, ⟨"READ_FRAME", .ctrl, 0x1, 0x7⟩, ⟨"DECODE_HEADER", .ctrl, 0x2, 0x7⟩, ⟨"PARSE", .ctrl, 0x3, 0x7⟩,
    ⟨"ENCODE_HEADER", .ctrl, 0x4, 0x7⟩, ⟨"RESERVED_5", .ctrl, 0x5, 0x7⟩, ⟨"RESERVED_6", .ctrl, 0x6, 0x7⟩,
    ⟨"RESERVED_7", .ctrl, 0x7, 0x7⟩]

/-- The rows of format FRAME_TYPE, as `spec/opcode_table.json` writes them. -/
def frameTypeRows : List Row :=
  [⟨"PARSE_DATA", .frameType, 0x00, 0xFF⟩, ⟨"PARSE_HEADERS", .frameType, 0x01, 0xFF⟩,
    ⟨"PARSE_PRIORITY", .frameType, 0x02, 0xFF⟩, ⟨"PARSE_RST_STREAM", .frameType, 0x03, 0xFF⟩,
    ⟨"PARSE_SETTINGS", .frameType, 0x04, 0xFF⟩, ⟨"PARSE_PUSH_PROMISE", .frameType, 0x05, 0xFF⟩,
    ⟨"PASS_UNPARSED_PING", .frameType, 0x06, 0xFF⟩, ⟨"PASS_UNPARSED_GOAWAY", .frameType, 0x07, 0xFF⟩,
    ⟨"PASS_UNPARSED_WINDOW_UPDATE", .frameType, 0x08, 0xFF⟩, ⟨"PASS_UNPARSED_CONTINUATION", .frameType, 0x09, 0xFF⟩,
    ⟨"PASS_UNKNOWN", .frameType, 0x0A, 0xFE⟩, ⟨"PASS_UNKNOWN", .frameType, 0x0C, 0xFC⟩,
    ⟨"PASS_UNKNOWN", .frameType, 0x10, 0xF0⟩, ⟨"PASS_UNKNOWN", .frameType, 0x20, 0xE0⟩,
    ⟨"PASS_UNKNOWN", .frameType, 0x40, 0xC0⟩, ⟨"PASS_UNKNOWN", .frameType, 0x80, 0x80⟩]

/-- Whether a word belongs to a row. -/
def Row.holds (r : Row) : Encoding → Bool
  | .ctrl w => r.format == .ctrl && w.toNat &&& r.mask == r.pattern
  | .frameType b => r.format == .frameType && b.toNat &&& r.mask == r.pattern

end Sys2Proof
end

