-- ==== Sys2Proof/Machine/State.lean ====
section
/-! DEFINITION. The state of one H2FD instance (spec `10_state.md`), of the two agents that act on it (R20), the reasons a step
can stop, and the state after reset (R285). -/

namespace Sys2Proof.Machine

/-- PHASE (R23). Values 5 to 7 "never occur", so they are no constructor; `Phase.code` gives the bits. -/
inductive Phase where
  | idle
  | hdr
  | pay
  | exec
  | done
deriving DecidableEq, Repr

/-- RES_KIND (R30); 7 never occurs. -/
inductive ResKind where
  | none
  | frame
  | connError
  | streamError
  | transport
  | header
  | encoded
deriving DecidableEq, Repr

/-- FRAME_KIND (R31); 9 to 15 never occur. -/
inductive FrameKind where
  | none
  | data
  | headers
  | priority
  | rstStream
  | settings
  | pushPromise
  | unparsed
  | unknown
deriving DecidableEq, Repr

/-- REASON (R32, R240); 10 to 15 are never written. -/
inductive Reason where
  | none
  | hdrShort
  | payloadShort
  | fieldShort
  | streamIdZero
  | padTooLong
  | prioritySize
  | rstSize
  | headersEmpty
  | settingsPartial
deriving DecidableEq, Repr

/-- ACTION (R33, R241). -/
inductive Action where
  | none
  | closeConn
  | resetStream
  | closeSilent
deriving DecidableEq, Repr

/-- The frame header registers FH_LEN, FH_TYPE, FH_FLAGS, FH_SID (R26), and FrameHeader as a value (R120). There is no storage for
the reserved bit (R90). -/
structure FrameHeader where
  length   : BitVec 24
  typ      : Byte
  flags    : Byte
  streamID : BitVec 31
deriving DecidableEq, Repr

/-- The frame fields of the result registers (R38 to R42); a field a parser does not name is 0 (R43, R165). -/
structure FrameFields where
  contentOff   : BitVec 24 := 0
  contentLen   : BitVec 24 := 0
  padLen       : BitVec 8 := 0
  padded       : Bool := false
  hasPrio      : Bool := false
  prioExcl     : Bool := false
  prioDep      : BitVec 31 := 0
  prioWeight   : BitVec 8 := 0
  promisedSid  : BitVec 31 := 0
  headersEnded : Bool := false
  streamEnded  : Bool := false
  ack          : Bool := false
  rstCode      : BitVec 32 := 0
  setCount     : BitVec 22 := 0
  setRem       : BitVec 3 := 0
deriving DecidableEq, Repr

/-- The result fields (R30 to R34, R36 to R42). CMD_REJECTED is not one of them (R35). -/
structure ResultFields where
  resKind   : ResKind := .none
  frameKind : FrameKind := .none
  reason    : Reason := .none
  action    : Action := .none
  frameSize : Bool := false
  errCode   : BitVec 32 := 0
  errSid    : BitVec 31 := 0
  errObs    : BitVec 24 := 0
  errExp    : BitVec 24 := 0
  frame     : FrameFields := {}
deriving DecidableEq, Repr

/-- The two classes of a connection error (R235): `ConnErr` with code ERR_PROTOCOL, and its frame-size specialization with code
ERR_FRAME_SIZE (R242). -/
inductive ConnClass where
  | protocol
  | frameSize
deriving DecidableEq, Repr

/-- An outcome (R10). Sizes are mathematical integers here (R8) and are cut to their register's width where they are written. -/
inductive CommandOutcome where
  | header (fh : FrameHeader)
  | encoded (e : Bytes9)
  | frame (kind : FrameKind) (fields : FrameFields)
  | connErr (cls : ConnClass) (reason : Reason) (observed expected : Nat)
  | streamErr (sid : BitVec 31) (code : Word) (reason : Reason)
  | transport (reason : Reason) (observed expected : Nat)
deriving DecidableEq, Repr

/-- The byte source (R20, R22): the bytes it offers and that have not been taken, first to be taken first, and its end-of-input
signal. `in_valid` is "there is such a byte", `in_data` is the first one, `in_eoi` is `eoi` (log 6). -/
structure Source where
  bytes : List Byte
  eoi   : Bool
deriving DecidableEq, Repr

/-- What one step of the interleaving does (R20, R73, R268), as data: an access of the host, a move of the byte source, a pulse
on the reset input, or the decoder unit's turn (log 7). -/
inductive Event where
  /-- Host: `RegWrite(off, v)` (R22). -/
  | regWrite (off : Nat) (v : Word)
  /-- Host: `RegRead(off)` (R22). -/
  | regRead (off : Nat)
  /-- Host: `PayloadWrite(a, v)` (R22, R63). -/
  | payloadWrite (a : Nat) (v : Byte)
  /-- Host: `PayloadRead(a)` (R22, R63). -/
  | payloadRead (a : Nat)
  /-- Byte source: one more byte is offered, after those already offered (R137). -/
  | offer (b : Byte)
  /-- Byte source: `in_eoi` is driven to `v` (R144, R267). -/
  | setEoi (v : Bool)
  /-- The reset input (R285). -/
  | reset
  /-- The decoder unit takes its enabled step, if it has one. -/
  | unitTurn
deriving DecidableEq, Repr

/-- What a host read returned. -/
inductive HostRead where
  | reg (off : Nat) (v : Word)
  | payload (a : Nat) (v : Byte)
deriving DecidableEq, Repr

/-- PAYLOAD (R27, R63) as a list of (address, byte) pairs: the bytes written since reset, in one canonical form
(`Memory.wf` in `Machine/Ops.lean`). An address that is not listed holds no written byte. -/
abbrev Memory := List Host.Cell

/-- The whole machine. INVENTORY.md's '## State' lists every field with its rule. -/
structure State where
  /-- The build's parameters (R288); no step changes them. -/
  params      : Params
  phase       : Phase
  /-- CUR_CMD (R23). -/
  curCmd      : BitVec 3
  /-- HDR_BUF (R24). -/
  hdrBuf      : Bytes9
  /-- HCNT (R24). -/
  hcnt        : BitVec 4
  /-- PCNT (R25). -/
  pcnt        : BitVec 24
  /-- FH_LEN, FH_TYPE, FH_FLAGS, FH_SID (R26). -/
  fh          : FrameHeader
  /-- PAYLOAD (R27). -/
  payload     : Memory
  /-- ENC (R28). -/
  enc         : Bytes9
  /-- SQ_ID (R29). -/
  sqId        : BitVec 16
  /-- The result fields (R30 to R34, R36 to R42). -/
  res         : ResultFields
  /-- CMD_REJECTED (R35). -/
  cmdRejected : Bool
  /-- The byte source's side of the byte input port. -/
  source      : Source
  /-- The interleaving's next steps, first first. -/
  inputs      : List Event
  /-- What the host's reads returned, latest first. -/
  hostReads   : List HostRead
  /-- The MODEL'S OWN: how many resets the free bytes of PAYLOAD have been redrawn by (log 1). -/
  resetEpoch  : Nat
deriving DecidableEq, Repr

/-- Why the machine stops. -/
inductive Fault where
  /-- Raised by the decoder unit's turn (`unitStep`) in the capacity refusal of R139 ("the decoder unit has no further step"; I14:
  stuck): a frame longer than `P_PAYLOAD_CAP`. SAFE: the model has no step where a chip might go on (R6). Host accesses and reset
  are still taken in that state (R139, R287). -/
  | capacityStuck
deriving DecidableEq, Repr

/-- Why an access or an instruction has no meaning. -/
inductive Refusal where
  /-- Raised by an arm of `exec` that has no meaning yet; no arm of this model answers so. SAFE. -/
  | notModelled (mnemonic : String)
  /-- Raised by a register access at an offset that is no multiple of 4 (R62, I16: "a model has no step for any other register
  access"). SAFE. -/
  | registerOffset
  /-- Raised by a payload-port access at or beyond `P_PAYLOAD_CAP` (R63, I15: "has no step (refused)"). SAFE. -/
  | payloadAddress
deriving DecidableEq, Repr

/-- The machine right after reset (R285), at the default parameters, with a source that offers nothing and no access pending.
HDR_BUF is "unspecified, not observable" there: nine zero bytes (log 2). PAYLOAD lists nothing: every byte is a free value. -/
def State.reset : State where
  params := {}
  phase := .idle
  curCmd := 0
  hdrBuf := Bytes9.zero
  hcnt := 0
  pcnt := 0
  fh := ⟨0, 0, 0, 0⟩
  payload := []
  enc := Bytes9.zero
  sqId := 0
  res := {}
  cmdRejected := false
  source := ⟨[], false⟩
  inputs := []
  hostReads := []
  resetEpoch := 0

end Sys2Proof.Machine
end

