-- ==== Sys2Proof/Machine/Flags.lean ====
section
/-! DEFINITION. The flag test, and the numeric codes of the status fields. -/

namespace Sys2Proof.Machine

/-- The uniform has-flag test (spec R128): `(flags & F) != 0`. -/
def hasFlag (flags f : Byte) : Bool := flags &&& f != 0

/-- The bits of PHASE (R23). -/
def Phase.code : Phase → BitVec 3
  | .idle => 0
  | .hdr => 1
  | .pay => 2
  | .exec => 3
  | .done => 4

/-- The bits of RES_KIND (R30). -/
def ResKind.code : ResKind → BitVec 3
  | .none => 0
  | .frame => 1
  | .connError => 2
  | .streamError => 3
  | .transport => 4
  | .header => 5
  | .encoded => 6

/-- The bits of FRAME_KIND (R31). -/
def FrameKind.code : FrameKind → BitVec 4
  | .none => 0
  | .data => 1
  | .headers => 2
  | .priority => 3
  | .rstStream => 4
  | .settings => 5
  | .pushPromise => 6
  | .unparsed => 7
  | .unknown => 8

/-- The bits of REASON (R240). -/
def Reason.code : Reason → BitVec 4
  | .none => 0
  | .hdrShort => 1
  | .payloadShort => 2
  | .fieldShort => 3
  | .streamIdZero => 4
  | .padTooLong => 5
  | .prioritySize => 6
  | .rstSize => 7
  | .headersEmpty => 8
  | .settingsPartial => 9

/-- The bits of ACTION (R33, R241). -/
def Action.code : Action → BitVec 2
  | .none => 0
  | .closeConn => 1
  | .resetStream => 2
  | .closeSilent => 3

/-- HDR, PAY and EXEC are the busy phases (R23). -/
def Phase.busy : Phase → Bool
  | .idle => false
  | .hdr => true
  | .pay => true
  | .exec => true
  | .done => false

end Sys2Proof.Machine
end

