-- ==== Sys2Proof/Machine/Ops.lean ====
section
/-! DEFINITION. The shared operations: the payload memory, the nine-byte buffers, accepting and rejecting a command, and raising
an outcome (this hardware's exception entry, spec R269) with its return (R270). -/

namespace Sys2Proof.Machine

/-! ### PAYLOAD -/

/-- The byte last written at an address, if any was since reset. -/
def Memory.lookup : Memory → Nat → Option Byte
  | [], _ => none
  | (b, v) :: m, a => if b = a then some v else Memory.lookup m a

/-- Write one byte, keeping the addresses strictly rising. -/
def Memory.write : Memory → Nat → Byte → Memory
  | [], a, v => [(a, v)]
  | (b, w) :: m, a, v =>
    if a < b then (a, v) :: (b, w) :: m
    else if a = b then (a, v) :: m
    else (b, w) :: Memory.write m a v

/-- The canonical form: addresses strictly rising, so each is listed at most once. An unlisted address holds no written byte, so
no entry can equal what an unlisted address holds. -/
abbrev Memory.wf (m : Memory) : Prop := m.Pairwise (fun x y => x.1 < y.1)

/-- `PayloadRead(a)` as every reader sees it (R9, R63): the written byte, and otherwise the free value of that address (I5). -/
def State.payloadByte (s : State) (a : Nat) : Byte :=
  match Memory.lookup s.payload a with
  | some v => v
  | none => Config.payloadDraw s.resetEpoch a

/-- `PayloadWrite(a, v)` (R9): write one byte of PAYLOAD. -/
def State.writePayload (s : State) (a : Nat) (v : Byte) : State := { s with payload := Memory.write s.payload a v }

/-! ### The nine-byte buffers -/

/-- Byte `i` of a nine-byte buffer; there is none beyond 8. -/
def getByte9 (h : Bytes9) : Nat → Byte
  | 0 => h.b0
  | 1 => h.b1
  | 2 => h.b2
  | 3 => h.b3
  | 4 => h.b4
  | 5 => h.b5
  | 6 => h.b6
  | 7 => h.b7
  | 8 => h.b8
  | _ => 0

/-- `HDR_BUF[i] <- v` (R136). -/
def setByte9 (h : Bytes9) (i : Nat) (v : Byte) : Bytes9 :=
  match i with
  | 0 => { h with b0 := v }
  | 1 => { h with b1 := v }
  | 2 => { h with b2 := v }
  | 3 => { h with b3 := v }
  | 4 => { h with b4 := v }
  | 5 => { h with b5 := v }
  | 6 => { h with b6 := v }
  | 7 => { h with b7 := v }
  | 8 => { h with b8 := v }
  | _ => h

/-! ### Outcomes: the trap mechanism of H2FD -/

/-- The ErrCode of a connection error's class (R237). -/
def ConnClass.code (p : Params) : ConnClass → Word
  | .protocol => p.errProtocol
  | .frameSize => p.errFrameSize

/-- The error taxonomy encoder (R236): the value of every result field for an outcome; fields not named are 0. -/
def encodeOutcome (p : Params) : CommandOutcome → ResultFields
  | .header _ => { resKind := .header }
  | .encoded _ => { resKind := .encoded }
  | .frame kind fields => { resKind := .frame, frameKind := kind, frame := fields }
  | .connErr cls reason observed expected =>
    { resKind := .connError, reason := reason, action := .closeConn, frameSize := cls == .frameSize,
      errCode := cls.code p, errObs := BitVec.ofNat 24 observed, errExp := BitVec.ofNat 24 expected }
  | .streamErr sid code reason =>
    { resKind := .streamError, reason := reason, action := .resetStream, errCode := code, errSid := sid }
  | .transport reason observed expected =>
    { resKind := .transport, reason := reason, action := .closeSilent, errObs := BitVec.ofNat 24 observed,
      errExp := BitVec.ofNat 24 expected }

/-- Entry (R238, R269): raising an outcome writes every result field and sets PHASE to DONE, and does nothing else. Errors and
non-errors enter DONE the same way. -/
def State.finish (s : State) (o : CommandOutcome) : State := { s with res := encodeOutcome s.params o, phase := .done }

/-- Return (R270): accepting a command clears the result fields and CMD_REJECTED and records the opcode (R43). The command then
moves PHASE as its rule says. -/
def State.accept (s : State) (op : BitVec 3) : State := { s with res := {}, cmdRejected := false, curCmd := op }

/-- A rejected command sets CMD_REJECTED and changes nothing else (R44, R262). -/
def State.reject (s : State) : State := { s with cmdRejected := true }

/-- A CTRL write of opcode 1 to 4 (R44): rejected in a busy phase, otherwise accepted and started. -/
def State.command (s : State) (op : BitVec 3) (start : State → State) : State :=
  if s.phase.busy then s.reject else start (s.accept op)

/-- Reset (R285, R286): every register at its reset value and PAYLOAD unspecified anew. The parameters stay (R288), the bytes not
yet consumed stay with the source (R286), and what the other agents hold is theirs. -/
def State.resetPulse (s : State) : State :=
  { State.reset with
    params := s.params, source := s.source, inputs := s.inputs, hostReads := s.hostReads, resetEpoch := s.resetEpoch + 1 }

/-- The `done` output (R22): 1 exactly when PHASE is DONE. -/
def State.doneOutput (s : State) : Bool := s.phase == .done

/-- The `in_ready` output: 1 in HDR and PAY (R22, R136), and 0 in the capacity refusal, where nine header bytes are in (R139;
log 9). -/
def State.inReady (s : State) : Bool := (s.phase == .hdr && decide (s.hcnt.toNat < 9)) || s.phase == .pay

end Sys2Proof.Machine
end

