-- ==== Sys2Proof/Machine/Operands.lean ====
section
/-! DEFINITION. The operands of the parsers: the cursor and the primitive readers (spec R65 to R68), the shared padding and
priority decoders (R161, R162), and the Settings entries (R201, R206). A payload is given as its read function `rd`. -/

namespace Sys2Proof.Machine

/-- The value of a byte sequence read big-endian (R61): `sum over k of b[k] * 256^(len-1-k)`. -/
def BE (bs : List Byte) : Nat := bs.foldl (fun acc b => acc * 256 + b.toNat) 0

/-- A cursor over the payload (R65). -/
structure Cursor where
  pos  : Nat
  stop : Nat
deriving DecidableEq, Repr

/-- Every parser starts at `(0, FH_LEN)` (R65). -/
def Cursor.start (n : BitVec 24) : Cursor := ⟨0, n.toNat⟩

/-- The bytes left before the end (R65). -/
def Cursor.remaining (c : Cursor) : Nat := c.stop - c.pos

/-- `readByte` (R66). -/
def readByte (rd : Nat → Byte) (c : Cursor) : Except CommandOutcome (Byte × Cursor) :=
  if c.remaining < 1 then .error (.transport .fieldShort c.remaining 1)
  else .ok (rd c.pos, { c with pos := c.pos + 1 })

/-- `readU16at` (R68). -/
def readU16at (rd : Nat → Byte) (a : Nat) : BitVec 16 := BitVec.ofNat 16 (BE [rd a, rd (a + 1)])

/-- `readU32at` (R68). -/
def readU32at (rd : Nat → Byte) (a : Nat) : Word := BitVec.ofNat 32 (BE [rd a, rd (a + 1), rd (a + 2), rd (a + 3)])

/-- `readU32` (R67): no byte is consumed when fewer than 4 remain. -/
def readU32 (rd : Nat → Byte) (c : Cursor) : Except CommandOutcome (Word × Cursor) :=
  if c.remaining < 4 then .error (.transport .fieldShort c.remaining 4)
  else .ok (readU32at rd c.pos, { c with pos := c.pos + 4 })

/-- The value of `padDecode`: whether a pad-length byte was consumed, its value, and the cursor after it. -/
structure PadField where
  padded    : Bool
  padLength : Byte
  cursor    : Cursor

/-- `padDecode` (R161). -/
def padDecode (p : Params) (rd : Nat → Byte) (flags : Byte) (c : Cursor) : Except CommandOutcome PadField :=
  if hasFlag flags p.flags.padded then
    match readByte rd c with
    | .error o => .error o
    | .ok (padLength, c) => .ok ⟨true, padLength, c⟩
  else .ok ⟨false, 0, c⟩

/-- The value of `prioDecode`: the PriorityParam (R92) and the cursor after it. -/
structure PrioField where
  excl   : Bool
  dep    : BitVec 31
  weight : Byte
  cursor : Cursor

/-- `prioDecode` (R162): the top bit of the word is the exclusive flag (R91, conflict C8). -/
def prioDecode (rd : Nat → Byte) (c : Cursor) : Except CommandOutcome PrioField :=
  match readU32 rd c with
  | .error o => .error o
  | .ok (v, c) =>
    match readByte rd c with
    | .error o => .error o
    | .ok (weight, c) => .ok ⟨v.getLsbD 31, v.setWidth 31, weight, c⟩

/-- The ID of Settings entry `i` (R200). -/
def settingId (rd : Nat → Byte) (i : Nat) : BitVec 16 := readU16at rd (6 * i)

/-- The value of Settings entry `i` (R200). -/
def settingValue (rd : Nat → Byte) (i : Nat) : Word := readU32at rd (6 * i + 2)

/-- `m[id] <- v` on a mapping held as an association list with one entry an ID (R201). -/
def settingsPut : List (BitVec 16 × Word) → BitVec 16 → Word → List (BitVec 16 × Word)
  | [], id, v => [(id, v)]
  | (k, w) :: m, id, v => if k = id then (k, v) :: m else (k, w) :: settingsPut m id v

/-- `settingsMap(p, k)` (R201): the left fold over the entries in byte order; a later entry overwrites. -/
def settingsMap (rd : Nat → Byte) : Nat → List (BitVec 16 × Word)
  | 0 => []
  | k + 1 => settingsPut (settingsMap rd k) (settingId rd k) (settingValue rd k)

/-- The lookup of R206: from the last entry down to the first, the value of the first match met. -/
def settingsLookup (rd : Nat → Byte) : Nat → BitVec 16 → Option Word
  | 0, _ => none
  | k + 1, id => if settingId rd k = id then some (settingValue rd k) else settingsLookup rd k id

end Sys2Proof.Machine
end

