-- ==== Sys2Proof/Machine/HeaderCodec.lean ====
section
/-! DEFINITION. The frame header codec (spec `40_header_codec.md`) and its two commands. -/

namespace Sys2Proof.Machine

/-- `decodeHeader` (R120, R81): total over nine bytes, no validation (R122). Appending bytes puts the first on the high side, which
is the big-endian order (R60); the top bit of the stream-ID word is cut off (R90). -/
def decodeHeader (h : Bytes9) : FrameHeader where
  length := h.b0 ++ h.b1 ++ h.b2
  typ := h.b3
  flags := h.b4
  streamID := (h.b5 ++ h.b6 ++ h.b7 ++ h.b8).setWidth 31

/-- `encodeHeader` (R125): the reserved bit is 0. -/
def encodeHeader (fh : FrameHeader) : Bytes9 where
  b0 := fh.length.extractLsb' 16 8
  b1 := fh.length.extractLsb' 8 8
  b2 := fh.length.extractLsb' 0 8
  b3 := fh.typ
  b4 := fh.flags
  b5 := 0#1 ++ fh.streamID.extractLsb' 24 7
  b6 := fh.streamID.extractLsb' 16 8
  b7 := fh.streamID.extractLsb' 8 8
  b8 := fh.streamID.extractLsb' 0 8

/-- DECODE_HEADER's start (R121): the nine header bytes are collected by the byte port (`Machine/BytePort.lean`). -/
def startDecodeHeader (s : State) : State := { s with phase := .hdr, hcnt := 0 }

/-- DECODE_HEADER (R121). -/
def execDecodeHeader (s : State) : Host.Outcome State Fault Refusal := .next (s.command 2 startDecodeHeader)

/-- ENCODE_HEADER's one step (R125): ENC from the FH registers, and the outcome. -/
def startEncodeHeader (s : State) : State := { s with enc := encodeHeader s.fh }.finish (.encoded (encodeHeader s.fh))

/-- ENCODE_HEADER (R125). -/
def execEncodeHeader (s : State) : Host.Outcome State Fault Refusal := .next (s.command 4 startEncodeHeader)

end Sys2Proof.Machine
end

