-- ==== Sys2Proof/Machine/Commands.lean ====
section
/-! DEFINITION. The other CTRL commands (spec R44, R96, R135, R145). -/

namespace Sys2Proof.Machine

/-- NOP (R44, R97): no state changes, not even CMD_REJECTED. -/
def execNop (s : State) : Host.Outcome State Fault Refusal := .next s

/-- READ_FRAME's start (R135). -/
def startReadFrame (s : State) : State := { s with phase := .hdr, hcnt := 0, pcnt := 0 }

/-- READ_FRAME (R135): the frame is then acquired by the byte port and parsed by the EXEC step. -/
def execReadFrame (s : State) : Host.Outcome State Fault Refusal := .next (s.command 1 startReadFrame)

/-- The capacity refusal's state (R139): PHASE is HDR with HCNT = 9, and the decoder unit has no further step. -/
def capacityRefusal (s : State) : State := { s with phase := .hdr, hcnt := 9 }

/-- PARSE's start (R145): the EXEC step is due, or, with FH_LEN above the capacity, "the instance has no further step (as rule
R139)", read as the very state of R139 (log 8). -/
def startParse (s : State) : State :=
  if s.params.payloadCap.toNat < s.fh.length.toNat then capacityRefusal s else { s with phase := .exec }

/-- PARSE (R145). -/
def execParse (s : State) : Host.Outcome State Fault Refusal := .next (s.command 3 startParse)

/-- CMD 5 (R44, R97): rejected in every phase. -/
def execReserved5 (s : State) : Host.Outcome State Fault Refusal := .next s.reject

/-- CMD 6 (R44, R97): rejected in every phase. -/
def execReserved6 (s : State) : Host.Outcome State Fault Refusal := .next s.reject

/-- CMD 7 (R44, R97): rejected in every phase. -/
def execReserved7 (s : State) : Host.Outcome State Fault Refusal := .next s.reject

end Sys2Proof.Machine
end

