-- ==== Sys2Proof/Machine/BytePort.lean ====
section
/-! DEFINITION. The steps of the byte input port (spec R136 to R141): header bytes, payload bytes, and end of input. -/

namespace Sys2Proof.Machine

/-- The ninth header byte is in (R138): the header registers are written, and the command goes on by its kind. -/
def headerComplete (s : State) : State :=
  let fh := decodeHeader s.hdrBuf
  let s := { s with fh := fh }
  if s.curCmd = 2 then s.finish (.header fh)
  else if s.params.payloadCap.toNat < fh.length.toNat then s
  else if fh.length = 0 then { s with phase := .exec }
  else { s with phase := .pay, pcnt := 0 }

/-- The header byte step (R136). -/
def headerByte (b : Byte) (s : State) : State :=
  let s := { s with hdrBuf := setByte9 s.hdrBuf s.hcnt.toNat b, hcnt := s.hcnt + 1 }
  if s.hcnt = 9 then headerComplete s else s

/-- The payload byte step (R140). -/
def payloadByteIn (b : Byte) (s : State) : State :=
  let s := { s.writePayload s.pcnt.toNat b with pcnt := s.pcnt + 1 }
  if s.pcnt = s.fh.length then { s with phase := .exec } else s

/-- End of input in HDR (R138); HCNT = 0 is the same outcome (decision D16). -/
def headerShort (s : State) : State := s.finish (.transport .hdrShort s.hcnt.toNat 9)

/-- End of input in PAY (R141). -/
def payloadShort (s : State) : State := s.finish (.transport .payloadShort s.pcnt.toNat s.fh.length.toNat)

/-- One turn of the byte port in HDR or PAY: an offered byte is taken; end of input counts only when no byte is offered (R267);
with neither, the unit waits (R300). -/
def portTurn (take : Byte → State → State) (short : State → State) (s : State) : State :=
  match s.source.bytes with
  | b :: rest => take b { s with source := { s.source with bytes := rest } }
  | [] => if s.source.eoi then short s else s

end Sys2Proof.Machine
end

