-- ==== Sys2Proof/Machine/PassThrough.lean ====
section
/-! DEFINITION. The pass-through targets (spec `45_passthrough.md`): no byte is read, no flag is tested, nothing fails (R225). -/

namespace Sys2Proof.Machine

/-- The view of the whole payload (R226, R227). -/
def passFrame (kind : FrameKind) (fh : FrameHeader) : CommandOutcome := .frame kind { contentOff := 0, contentLen := fh.length }

/-- PASS_UNPARSED (R226). -/
def passUnparsed (_ : Params) (fh : FrameHeader) (_ : Nat → Byte) : CommandOutcome := passFrame .unparsed fh

/-- PASS_UNKNOWN (R227). -/
def passUnknown (_ : Params) (fh : FrameHeader) (_ : Nat → Byte) : CommandOutcome := passFrame .unknown fh

/-- The EXEC step for a Ping frame (R142, R226). -/
def execPassUnparsedPing (s : State) : Host.Outcome State Fault Refusal :=
  .next (s.finish (passUnparsed s.params s.fh s.payloadByte))

/-- The EXEC step for a GoAway frame (R142, R226). -/
def execPassUnparsedGoaway (s : State) : Host.Outcome State Fault Refusal :=
  .next (s.finish (passUnparsed s.params s.fh s.payloadByte))

/-- The EXEC step for a WindowUpdate frame (R142, R226). -/
def execPassUnparsedWindowUpdate (s : State) : Host.Outcome State Fault Refusal :=
  .next (s.finish (passUnparsed s.params s.fh s.payloadByte))

/-- The EXEC step for a Continuation frame (R142, R226). -/
def execPassUnparsedContinuation (s : State) : Host.Outcome State Fault Refusal :=
  .next (s.finish (passUnparsed s.params s.fh s.payloadByte))

/-- The EXEC step for a frame of an unknown type (R142, R227). -/
def execPassUnknown (s : State) : Host.Outcome State Fault Refusal :=
  .next (s.finish (passUnknown s.params s.fh s.payloadByte))

end Sys2Proof.Machine
end

