-- ==== Sys2Proof/Machine/DataHeaders.lean ====
section
/-! DEFINITION. The Data and Headers parsers (spec `42_data_headers.md`). A parser is a total function of the build, the header and
the payload (R143); its meaning raises the outcome, which is the EXEC step (R142). -/

namespace Sys2Proof.Machine

/-- The stream-ID-zero failure (R160). -/
def streamIdZero : CommandOutcome := .connErr .protocol .streamIdZero 0 0

/-- The pad-too-long failure (R169, R212). -/
def padTooLong : CommandOutcome := .connErr .protocol .padTooLong 0 0

/-- PARSE_DATA (R166). -/
def parseData (p : Params) (fh : FrameHeader) (rd : Nat → Byte) : CommandOutcome :=
  if fh.streamID = 0 then streamIdZero
  else
    match padDecode p rd fh.flags (Cursor.start fh.length) with
    | .error o => o
    | .ok pad =>
      if pad.cursor.remaining < pad.padLength.toNat then padTooLong
      else
        .frame .data
          { contentOff := BitVec.ofNat 24 pad.cursor.pos
            contentLen := BitVec.ofNat 24 (pad.cursor.remaining - pad.padLength.toNat)
            padded := pad.padded
            padLen := pad.padLength
            streamEnded := hasFlag fh.flags p.flags.endStream }

/-- The priority block of a Headers frame, read when PRIORITY is set (R172, R175). -/
def headersPrio (p : Params) (rd : Nat → Byte) (flags : Byte) (c : Cursor) : Except CommandOutcome PrioField :=
  if hasFlag flags p.flags.priority then prioDecode rd c else .ok ⟨false, 0, 0, c⟩

/-- PARSE_HEADERS (R172). The fragment length is an integer and may be negative (R8, R174). -/
def parseHeaders (p : Params) (fh : FrameHeader) (rd : Nat → Byte) : CommandOutcome :=
  if fh.streamID = 0 then streamIdZero
  else
    match padDecode p rd fh.flags (Cursor.start fh.length) with
    | .error o => o
    | .ok pad =>
      match headersPrio p rd fh.flags pad.cursor with
      | .error o => o
      | .ok prio =>
        let fragLen : Int := (prio.cursor.remaining : Int) - (pad.padLength.toNat : Int)
        if fragLen ≤ 0 then .streamErr fh.streamID p.errProtocol .headersEmpty
        else
          .frame .headers
            { contentOff := BitVec.ofNat 24 prio.cursor.pos
              contentLen := BitVec.ofNat 24 fragLen.toNat
              padded := pad.padded
              padLen := pad.padLength
              hasPrio := hasFlag fh.flags p.flags.priority
              prioExcl := prio.excl
              prioDep := prio.dep
              prioWeight := prio.weight
              headersEnded := hasFlag fh.flags p.flags.endHeaders
              streamEnded := hasFlag fh.flags p.flags.endStream }

/-- The EXEC step with target PARSE_DATA (R142, R166). -/
def execParseData (s : State) : Host.Outcome State Fault Refusal := .next (s.finish (parseData s.params s.fh s.payloadByte))

/-- The EXEC step with target PARSE_HEADERS (R142, R172). -/
def execParseHeaders (s : State) : Host.Outcome State Fault Refusal :=
  .next (s.finish (parseHeaders s.params s.fh s.payloadByte))

end Sys2Proof.Machine
end

