-- ==== Sys2Proof/Machine/PriorityRst.lean ====
section
/-! DEFINITION. The Priority and RstStream parsers (spec `43_priority_rst.md`). -/

namespace Sys2Proof.Machine

/-- PARSE_PRIORITY (R185): stream ID before size (R186). -/
def parsePriority (_ : Params) (fh : FrameHeader) (rd : Nat → Byte) : CommandOutcome :=
  if fh.streamID = 0 then streamIdZero
  else if fh.length.toNat ≠ 5 then .connErr .frameSize .prioritySize fh.length.toNat 5
  else
    match prioDecode rd (Cursor.start fh.length) with
    | .error o => o
    | .ok prio =>
      .frame .priority { hasPrio := true, prioExcl := prio.excl, prioDep := prio.dep, prioWeight := prio.weight }

/-- PARSE_RST_STREAM (R190): which check is first is the parameter `P_RST_CHECK_ORDER`; the code is raw (R191). -/
def parseRstStream (p : Params) (fh : FrameHeader) (rd : Nat → Byte) : CommandOutcome :=
  let sizeBad : Bool := fh.length.toNat ≠ 4
  let idBad : Bool := fh.streamID = 0
  let sizeError : CommandOutcome := .connErr .frameSize .rstSize fh.length.toNat 4
  let code : CommandOutcome :=
    match readU32 rd (Cursor.start fh.length) with
    | .error o => o
    | .ok (v, _) => .frame .rstStream { rstCode := v }
  match p.rstCheckOrder with
  | .sizeFirst => if sizeBad then sizeError else if idBad then streamIdZero else code
  | .idFirst => if idBad then streamIdZero else if sizeBad then sizeError else code

/-- The EXEC step with target PARSE_PRIORITY (R142, R185). -/
def execParsePriority (s : State) : Host.Outcome State Fault Refusal :=
  .next (s.finish (parsePriority s.params s.fh s.payloadByte))

/-- The EXEC step with target PARSE_RST_STREAM (R142, R190). -/
def execParseRstStream (s : State) : Host.Outcome State Fault Refusal :=
  .next (s.finish (parseRstStream s.params s.fh s.payloadByte))

end Sys2Proof.Machine
end

