-- ==== Sys2Proof/Machine/SettingsPush.lean ====
section
/-! DEFINITION. The Settings and PushPromise parsers (spec `44_settings_pushpromise.md`). -/

namespace Sys2Proof.Machine

/-- PARSE_SETTINGS (R200): the entries are not read here; the mapping is read through the lookup (R206). -/
def parseSettings (p : Params) (fh : FrameHeader) (_ : Nat → Byte) : CommandOutcome :=
  let n := fh.length.toNat
  if n % 6 ≠ 0 ∧ p.settingsPartial = .reject then .connErr .frameSize .settingsPartial n (n - n % 6)
  else
    .frame .settings
      { setCount := BitVec.ofNat 22 (n / 6), setRem := BitVec.ofNat 3 (n % 6), ack := hasFlag fh.flags p.flags.ack }

/-- PARSE_PUSH_PROMISE (R210): the pad bound is checked after the promised-stream-ID word (R212, conflict C3). -/
def parsePushPromise (p : Params) (fh : FrameHeader) (rd : Nat → Byte) : CommandOutcome :=
  if fh.streamID = 0 then streamIdZero
  else
    match padDecode p rd fh.flags (Cursor.start fh.length) with
    | .error o => o
    | .ok pad =>
      match readU32 rd pad.cursor with
      | .error o => o
      | .ok (v, c) =>
        if c.remaining < pad.padLength.toNat then padTooLong
        else
          .frame .pushPromise
            { contentOff := BitVec.ofNat 24 c.pos
              contentLen := BitVec.ofNat 24 (c.remaining - pad.padLength.toNat)
              padded := pad.padded
              padLen := pad.padLength
              promisedSid := v.setWidth 31
              headersEnded := hasFlag fh.flags p.flags.endHeaders }

/-- The EXEC step with target PARSE_SETTINGS (R142, R200). -/
def execParseSettings (s : State) : Host.Outcome State Fault Refusal :=
  .next (s.finish (parseSettings s.params s.fh s.payloadByte))

/-- The EXEC step with target PARSE_PUSH_PROMISE (R142, R210). -/
def execParsePushPromise (s : State) : Host.Outcome State Fault Refusal :=
  .next (s.finish (parsePushPromise s.params s.fh s.payloadByte))

end Sys2Proof.Machine
end

