-- ==== Sys2Proof/Machine/Dispatch.lean ====
section
/-! DEFINITION. The dispatch: one arm for each instruction. The first eight are CTRL writes (spec R44), the others the EXEC step's
targets (R142, R143). -/

namespace Sys2Proof.Machine

def exec (i : Instr) (s : State) : Host.Outcome State Fault Refusal :=
  match i with
  | .nop => Sys2Proof.Machine.execNop s
  | .readFrame => Sys2Proof.Machine.execReadFrame s
  | .decodeHeader => Sys2Proof.Machine.execDecodeHeader s
  | .parse => Sys2Proof.Machine.execParse s
  | .encodeHeader => Sys2Proof.Machine.execEncodeHeader s
  | .reserved5 => Sys2Proof.Machine.execReserved5 s
  | .reserved6 => Sys2Proof.Machine.execReserved6 s
  | .reserved7 => Sys2Proof.Machine.execReserved7 s
  | .parseData => Sys2Proof.Machine.execParseData s
  | .parseHeaders => Sys2Proof.Machine.execParseHeaders s
  | .parsePriority => Sys2Proof.Machine.execParsePriority s
  | .parseRstStream => Sys2Proof.Machine.execParseRstStream s
  | .parseSettings => Sys2Proof.Machine.execParseSettings s
  | .parsePushPromise => Sys2Proof.Machine.execParsePushPromise s
  | .passUnparsedPing => Sys2Proof.Machine.execPassUnparsedPing s
  | .passUnparsedGoaway => Sys2Proof.Machine.execPassUnparsedGoaway s
  | .passUnparsedWindowUpdate => Sys2Proof.Machine.execPassUnparsedWindowUpdate s
  | .passUnparsedContinuation => Sys2Proof.Machine.execPassUnparsedContinuation s
  | .passUnknown _ => Sys2Proof.Machine.execPassUnknown s

end Sys2Proof.Machine
end

