-- ==== Sys2Proof/Machine/RegisterMap.lean ====
section
/-! DEFINITION. The register map (spec `10_state.md` section 4) and the host's two ports, but for the CTRL write, which runs a
command (`Machine/Agents.lean`). -/

namespace Sys2Proof.Machine

/-- The twenty registers of the map. -/
inductive Reg where
  | ctrl
  | status
  | fhLen
  | fhTf
  | fhSid
  | errCode
  | errSid
  | errObs
  | errExp
  | contentOff
  | contentLen
  | prio
  | fflags
  | rstCode
  | setInfo
  | enc0
  | enc1
  | enc2
  | sqId
  | sqValue
deriving DecidableEq, Repr

/-- The offsets of the map. -/
def regOffsets : List (Nat × Reg) :=
  [(0x00, .ctrl), (0x04, .status), (0x08, .fhLen), (0x0C, .fhTf), (0x10, .fhSid), (0x14, .errCode), (0x18, .errSid),
    (0x1C, .errObs), (0x20, .errExp), (0x24, .contentOff), (0x28, .contentLen), (0x2C, .prio), (0x30, .fflags),
    (0x34, .rstCode), (0x38, .setInfo), (0x3C, .enc0), (0x40, .enc1), (0x44, .enc2), (0x48, .sqId), (0x4C, .sqValue)]

/-- The register at an offset, if the map lists one. -/
def regAt (off : Nat) : Option Reg := regOffsets.lookup off

/-- The Settings lookup (R206): it answers only after a Settings frame, from PAYLOAD as it is at the read (R293). -/
def State.sqLookup (s : State) : Option Word :=
  if s.res.resKind = .frame ∧ s.res.frameKind = .settings then
    settingsLookup s.payloadByte s.res.frame.setCount.toNat s.sqId
  else none

/-- SQ_PRESENT, computed at the read (R29, R206). -/
def State.sqPresent (s : State) : Bool := s.sqLookup.isSome

/-- SQ_VALUE, computed at the read (R29, R206). -/
def State.sqValue (s : State) : Word :=
  match s.sqLookup with
  | some v => v
  | none => 0

/-- STATUS: bits [18], [17], [16], [15:14], [13:10], [9:6], [5:3], [2:0], high side first. -/
def State.statusWord (s : State) : Word :=
  0#13 ++ BitVec.ofBool s.sqPresent ++ BitVec.ofBool s.cmdRejected ++ BitVec.ofBool s.res.frameSize ++ s.res.action.code
    ++ s.res.reason.code ++ s.res.frameKind.code ++ s.res.resKind.code ++ s.phase.code

/-- PRIO: bit [31] PRIO_EXCL; bits [30:0] PRIO_DEP, or PROMISED_SID for a PushPromise frame. -/
def State.prioWord (s : State) : Word :=
  BitVec.ofBool s.res.frame.prioExcl
    ++ (if s.res.frameKind = .pushPromise then s.res.frame.promisedSid else s.res.frame.prioDep)

/-- FFLAGS: bits [20] ACK, [19] STREAM_ENDED, [18] HEADERS_ENDED, [17] HAS_PRIO, [16] PADDED, [15:8] PRIO_WEIGHT, [7:0] PAD_LEN. -/
def State.fflagsWord (s : State) : Word :=
  0#11 ++ BitVec.ofBool s.res.frame.ack ++ BitVec.ofBool s.res.frame.streamEnded ++ BitVec.ofBool s.res.frame.headersEnded
    ++ BitVec.ofBool s.res.frame.hasPrio ++ BitVec.ofBool s.res.frame.padded ++ s.res.frame.prioWeight ++ s.res.frame.padLen

/-- SET_INFO: bits [26:24] SET_REM, [21:0] SET_COUNT. -/
def State.setInfoWord (s : State) : Word := 0#5 ++ s.res.frame.setRem ++ 0#2 ++ s.res.frame.setCount

/-- The value of a register (R47): its fields at their bits and 0 elsewhere. CTRL is write-only and reads 0. -/
def State.regValue (s : State) : Reg → Word
  | .ctrl => 0
  | .status => s.statusWord
  | .fhLen => s.fh.length.setWidth 32
  | .fhTf => 0#16 ++ s.fh.flags ++ s.fh.typ
  | .fhSid => s.fh.streamID.setWidth 32
  | .errCode => s.res.errCode
  | .errSid => s.res.errSid.setWidth 32
  | .errObs => s.res.errObs.setWidth 32
  | .errExp => s.res.errExp.setWidth 32
  | .contentOff => s.res.frame.contentOff.setWidth 32
  | .contentLen => s.res.frame.contentLen.setWidth 32
  | .prio => s.prioWord
  | .fflags => s.fflagsWord
  | .rstCode => s.res.frame.rstCode
  | .setInfo => s.setInfoWord
  | .enc0 => s.enc.b0 ++ s.enc.b1 ++ s.enc.b2 ++ s.enc.b3
  | .enc1 => s.enc.b4 ++ s.enc.b5 ++ s.enc.b6 ++ s.enc.b7
  | .enc2 => s.enc.b8 ++ 0#24
  | .sqId => s.sqId.setWidth 32
  | .sqValue => s.sqValue

/-- `RegRead(off)` (R47): an offset that the map does not list reads 0 (section 4, I17). -/
def State.regRead (s : State) (off : Nat) : Word :=
  match regAt off with
  | some r => s.regValue r
  | none => 0

/-- A write to an FH register (R45): it takes effect in IDLE and DONE and is ignored in the busy phases. -/
def State.writeHeader (s : State) (fh : FrameHeader) : State := if s.phase.busy then s else { s with fh := fh }

/-- `RegWrite` of a register other than CTRL (R45, R46). Read-only registers ignore it. -/
def State.regWrite (s : State) (r : Reg) (v : Word) : State :=
  match r with
  | .fhLen => s.writeHeader { s.fh with length := v.setWidth 24 }
  | .fhTf => s.writeHeader { s.fh with typ := v.extractLsb' 0 8, flags := v.extractLsb' 8 8 }
  | .fhSid => s.writeHeader { s.fh with streamID := v.setWidth 31 }
  | .sqId => { s with sqId := v.setWidth 16 }
  | .ctrl | .status | .errCode | .errSid | .errObs | .errExp | .contentOff | .contentLen | .prio | .fflags | .rstCode | .setInfo
  | .enc0 | .enc1 | .enc2 | .sqValue => s

/-- What a host read returned goes to the host. Nothing of the instance changes (R47, R63, R70). -/
def State.answerHost (s : State) (r : HostRead) : State := { s with hostReads := r :: s.hostReads }

/-- The host's `RegRead` (R22, R62): only word accesses at multiples of 4 exist. -/
def hostRegRead (off : Nat) (s : State) : Host.Outcome State Fault Refusal :=
  if off % 4 ≠ 0 then .refused .registerOffset else .next (s.answerHost (.reg off (s.regRead off)))

/-- The host's `PayloadRead` (R63): allowed in every phase. -/
def hostPayloadRead (a : Nat) (s : State) : Host.Outcome State Fault Refusal :=
  if s.params.payloadCap.toNat ≤ a then .refused .payloadAddress else .next (s.answerHost (.payload a (s.payloadByte a)))

/-- The host's `PayloadWrite` (R63): ignored in the busy phases. -/
def hostPayloadWrite (a : Nat) (v : Byte) (s : State) : Host.Outcome State Fault Refusal :=
  if s.params.payloadCap.toNat ≤ a then .refused .payloadAddress
  else if s.phase.busy then .next s
  else .next (s.writePayload a v)

end Sys2Proof.Machine
end

