-- ==== Sys2Proof/Machine/Agents.lean ====
section
/-! DEFINITION. The steps of the three agents (spec R20): the decoder unit's turn, the host's accesses, the byte source's moves,
and the reset input. -/

namespace Sys2Proof.Machine

/-- The EXEC step (R142): the dispatcher reads FH_TYPE and the target runs (R86, R143). -/
def execTurn (s : State) : Host.Outcome State Fault Refusal := exec (decode s.params.types (.frameType s.fh.typ)) s

/-- The decoder unit's turn. In IDLE and DONE no step is enabled and the unit waits (R281, R287). With nine header bytes in HDR
it is in the capacity refusal and has no further step (R139). -/
def unitStep (s : State) : Host.Outcome State Fault Refusal :=
  match s.phase with
  | .idle => .next s
  | .hdr => if 9 ≤ s.hcnt.toNat then .fault .capacityStuck else .next (portTurn headerByte headerShort s)
  | .pay => .next (portTurn payloadByteIn payloadShort s)
  | .exec => execTurn s
  | .done => .next s

/-- The host's `RegWrite` (R22, R44 to R46, R62): a CTRL write runs the command its word decodes to, at the write (R77). -/
def hostRegWrite (off : Nat) (v : Word) (s : State) : Host.Outcome State Fault Refusal :=
  if off % 4 ≠ 0 then .refused .registerOffset
  else
    match regAt off with
    | some .ctrl => exec (decode s.params.types (.ctrl v)) s
    | some r => .next (s.regWrite r v)
    | none => .next s

/-- One event of the interleaving. -/
def deliver (e : Event) (s : State) : Host.Outcome State Fault Refusal :=
  match e with
  | .regWrite off v => hostRegWrite off v s
  | .regRead off => hostRegRead off s
  | .payloadWrite a v => hostPayloadWrite a v s
  | .payloadRead a => hostPayloadRead a s
  | .offer b => .next { s with source := { s.source with bytes := s.source.bytes ++ [b] } }
  | .setEoi v => .next { s with source := { s.source with eoi := v } }
  | .reset => .next s.resetPulse
  | .unitTurn => unitStep s

/-- The state from which a word of an opcode-table row is run next. A type byte is run by the EXEC step of the unit's turn; a
command word by the host's CTRL write. `decodeBits` tells the two apart by the same width. -/
def fetchState (s : State) (nbits w : Nat) : State :=
  if nbits = 8 then
    { s with phase := .exec, fh := { s.fh with typ := BitVec.ofNat 8 w }, inputs := .unitTurn :: s.inputs }
  else { s with inputs := .regWrite 0x00 (BitVec.ofNat 32 w) :: s.inputs }

end Sys2Proof.Machine
end

