-- ==== Sys2Proof/Machine/Step.lean ====
section
/-! DEFINITION. One step of the machine (spec R20, R73): the next event of the interleaving, or, when none is pending, the decoder
unit's turn. -/

namespace Sys2Proof.Machine

/-- One atomic step. With no event pending the decoder unit moves, so an enabled step of it is taken (R300). -/
def step (s : State) : Host.Outcome State Fault Refusal :=
  match s.inputs with
  | [] => unitStep s
  | e :: rest => deliver e { s with inputs := rest }

/-- `s` with an opcode-table word placed where the very next step runs it (log 5, log 7). -/
def State.withFetchWord (s : State) (nbits w : Nat) : State := fetchState s nbits w

end Sys2Proof.Machine
end

