-- ==== Sys2Proof/Machine/Platform.lean ====
section
/-! DEFINITION. A platform of several instances (spec R274, R71): each has its own register block, port and state, and the steps of
different instances interleave freely. -/

namespace Sys2Proof.Machine

/-- One instance and the platform address of its register block (`P_REG_BASE`, OPEN: any). -/
structure Slot where
  regBase : Nat
  inst    : State
deriving DecidableEq, Repr

/-- The platform: `P_INSTANCES` is the length of the list, and the instances are numbered from 0 (R274). -/
abbrev Platform := List Slot

/-- Every instance as it leaves reset (R274, R285), with the bases and parameters of the build. -/
def Platform.reset (builds : List (Nat × Params)) : Platform :=
  builds.map fun b => ⟨b.1, { State.reset with params := b.2 }⟩

/-- Replace the state of instance `k`. -/
def Platform.put (p : Platform) (k : Nat) (s : State) : Platform :=
  match p, k with
  | [], _ => []
  | x :: p, 0 => { x with inst := s } :: p
  | x :: p, k + 1 => x :: Platform.put p k s

/-- The bytes a register block spans: 20 words (section 4 of `10_state.md`). -/
def regBlockBytes : Nat := 80

/-- The instance and the register offset that a platform address falls at (R71): the first block that holds it. -/
def Platform.locate : Platform → Nat → Option (Nat × Nat)
  | [], _ => none
  | x :: p, a =>
    if x.regBase ≤ a ∧ a < x.regBase + regBlockBytes then some (0, a - x.regBase)
    else
      match Platform.locate p a with
      | some (k, off) => some (k + 1, off)
      | none => none

/-- One step of instance `k`; the others keep their state. There is no instance beyond the last. -/
def Platform.step (p : Platform) (k : Nat) : Option (Host.Outcome Platform Fault Refusal) :=
  match p[k]? with
  | none => none
  | some x =>
    match Sys2Proof.Machine.step x.inst with
    | .next s => some (.next (p.put k s))
    | .fault r => some (.fault r)
    | .refused r => some (.refused r)

end Sys2Proof.Machine
end

