-- ==== Sys2Proof/Machine/Taxonomy.lean ====
section
/-! DEFINITION. ErrCode display names (spec R98, R246): for a model's printer only; no register holds text. -/

namespace Sys2Proof.Machine

/-- The names of the fourteen ErrCodes 0x0 to 0xd, in order (R98). -/
def errCodeNames : List String :=
  ["NO_ERROR", "PROTOCOL_ERROR", "INTERNAL_ERROR", "FLOW_CONTROL_ERROR", "SETTINGS_TIMEOUT", "STREAM_CLOSED",
    "FRAME_SIZE_ERROR", "REFUSED_STREAM", "CANCEL", "COMPRESSION_ERROR", "CONNECT_ERROR", "ENHANCE_YOUR_CALM",
    "INADEQUATE_SECURITY", "HTTP_1_1_REQUIRED"]

/-- The lowercase hexadecimal digit of a value below 16. -/
def hexDigit (d : Nat) : Char :=
  match d with
  | 0 => '0'
  | 1 => '1'
  | 2 => '2'
  | 3 => '3'
  | 4 => '4'
  | 5 => '5'
  | 6 => '6'
  | 7 => '7'
  | 8 => '8'
  | 9 => '9'
  | 10 => 'a'
  | 11 => 'b'
  | 12 => 'c'
  | 13 => 'd'
  | 14 => 'e'
  | _ => 'f'

/-- The eight hexadecimal digits of a word, most significant first. -/
def hexDigits (v : Word) : List Nat := [28, 24, 20, 16, 12, 8, 4, 0].map fun k => (v.extractLsb' k 4).toNat

/-- Lowercase hexadecimal without leading zeros (R246). -/
def hexText (v : Word) : String := String.ofList (((hexDigits v).dropWhile (· == 0)).map hexDigit)

/-- `errCodeName` (R246): it never fails. -/
def errCodeName (code : Word) : String :=
  match errCodeNames[code.toNat]? with
  | some name => name
  | none => "unknown error code 0x" ++ hexText code

end Sys2Proof.Machine
end

