-- ==== Sys2Proof/Machine/PureForm.lean ====
section
/-! DEFINITION. The pure forms of the frame reader (spec R143, R149): what a header and payload, or a finite byte sequence, decode
to, without registers or steps. The step never calls them; claims compare it with them. -/

namespace Sys2Proof.Machine

/-- The dispatch targets of R84. -/
inductive Target where
  | data
  | headers
  | priority
  | rstStream
  | settings
  | pushPromise
  | unparsed
  | unknown
deriving DecidableEq, Repr

/-- `dispatch(t)` (R86): the target of R84's row for `t`. -/
def dispatch (tv : TypeValues) (t : Byte) : Target :=
  if t = tv.data then .data
  else if t = tv.headers then .headers
  else if t = tv.priority then .priority
  else if t = tv.rstStream then .rstStream
  else if t = tv.settings then .settings
  else if t = tv.pushPromise then .pushPromise
  else if t ∈ [tv.ping, tv.goAway, tv.windowUpdate, tv.continuation] then .unparsed
  else .unknown

/-- `parseFrame(fh, p)` (R143). -/
def parseFrame (p : Params) (fh : FrameHeader) (rd : Nat → Byte) : CommandOutcome :=
  match dispatch p.types fh.typ with
  | .data => parseData p fh rd
  | .headers => parseHeaders p fh rd
  | .priority => parsePriority p fh rd
  | .rstStream => parseRstStream p fh rd
  | .settings => parseSettings p fh rd
  | .pushPromise => parsePushPromise p fh rd
  | .unparsed => passUnparsed p fh rd
  | .unknown => passUnknown p fh rd

/-- The nine header bytes at the front of a sequence; absent bytes are 0, which no use of it reads. -/
def headBytes9 (s : List Byte) : Bytes9 :=
  ⟨s.getD 0 0, s.getD 1 0, s.getD 2 0, s.getD 3 0, s.getD 4 0, s.getD 5 0, s.getD 6 0, s.getD 7 0, s.getD 8 0⟩

/-- The header at the front of a sequence of at least nine bytes. -/
def headOf (s : List Byte) : FrameHeader := decodeHeader (headBytes9 s)

/-- `readFrame(s)` (R149): the outcome of a finite byte sequence followed by end of input. -/
def readFrame (p : Params) (s : List Byte) : CommandOutcome :=
  if s.length < 9 then .transport .hdrShort s.length 9
  else if s.length - 9 < (headOf s).length.toNat then .transport .payloadShort (s.length - 9) (headOf s).length.toNat
  else parseFrame p (headOf s) (fun a => s.getD (9 + a) 0)

/-- `consumed(s)` (R149). -/
def consumed (s : List Byte) : Nat :=
  if s.length < 9 then s.length
  else if s.length - 9 < (headOf s).length.toNat then s.length
  else 9 + (headOf s).length.toNat

end Sys2Proof.Machine
end

