-- ==== Sys2Proof/Safety.lean ====
section
/-! DEFINITION. The invariant of the machine and what a safe step is, in the terms claims use. -/

namespace Sys2Proof.Machine

/-- The result fields are those of no outcome or of one outcome: the class decides ACTION, FRAME_SIZE and the error fields (R34,
R36, R37, R236, R241), an error carries one of the two emitted codes (R237), only a frame outcome has a FRAME_KIND or frame fields
(R31, R165), and a view lies inside the payload buffer (R164). -/
structure ResultFields.Sound (p : Params) (r : ResultFields) : Prop where
  action : r.action = match r.resKind with
    | .connError => Action.closeConn
    | .streamError => Action.resetStream
    | .transport => Action.closeSilent
    | .none | .frame | .header | .encoded => Action.none
  frameSize : r.frameSize = true → r.resKind = .connError ∧ r.errCode = p.errFrameSize
  connCode : r.resKind = .connError → r.errCode = (if r.frameSize then p.errFrameSize else p.errProtocol)
  streamCode : r.resKind = .streamError → r.errCode = p.errProtocol ∧ r.errSid ≠ 0 ∧ r.reason = .headersEmpty
  noCode : r.resKind ≠ .connError → r.resKind ≠ .streamError → r.errCode = 0
  noSid : r.resKind ≠ .streamError → r.errSid = 0
  reason : r.reason ≠ .none ↔ (r.resKind = .connError ∨ r.resKind = .streamError ∨ r.resKind = .transport)
  sizes : (r.resKind = .transport ∨ r.frameSize = true) ∨ (r.errObs = 0 ∧ r.errExp = 0)
  kind : r.frameKind ≠ .none ↔ r.resKind = .frame
  fields : r.resKind ≠ .frame → r.frame = {}
  view : r.frame.contentOff.toNat + r.frame.contentLen.toNat ≤ p.payloadCap.toNat

/-- The invariant of one instance. -/
structure State.Inv (s : State) : Prop where
  /-- PAYLOAD is in canonical form. -/
  payloadForm : Memory.wf s.payload
  /-- PAYLOAD has `P_PAYLOAD_CAP` bytes (R27, R63). -/
  payloadCap : ∀ c ∈ s.payload, c.1 < s.params.payloadCap.toNat
  /-- HCNT is 0 to 9 (R24). -/
  hcnt : s.hcnt.toNat ≤ 9
  /-- Nine header bytes are in while PHASE is HDR only in the capacity refusal (R139). -/
  capacity : s.phase = .hdr → s.hcnt.toNat = 9 → s.params.payloadCap.toNat < s.fh.length.toNat
  /-- In PAY there is a byte to come and the frame fits the buffer (R138, R140). -/
  pay : s.phase = .pay → s.pcnt.toNat < s.fh.length.toNat ∧ s.fh.length.toNat ≤ s.params.payloadCap.toNat
  /-- The frame of an EXEC step fits the buffer (R138, R145). -/
  exec : s.phase = .exec → s.fh.length.toNat ≤ s.params.payloadCap.toNat
  /-- CUR_CMD is the command that may be in the phase (R43, R121, R135, R145). -/
  idleCmd : s.phase = .idle → s.curCmd = 0
  hdrCmd : s.phase = .hdr → s.hcnt.toNat < 9 → s.curCmd = 1 ∨ s.curCmd = 2
  stuckCmd : s.phase = .hdr → s.hcnt.toNat = 9 → s.curCmd = 1 ∨ s.curCmd = 3
  payCmd : s.phase = .pay → s.curCmd = 1
  execCmd : s.phase = .exec → s.curCmd = 1 ∨ s.curCmd = 3
  /-- Outside DONE the result fields read 0 (R43, R285). -/
  cleared : s.phase ≠ .done → s.res = {}
  /-- In DONE there is an outcome (R23, R238). -/
  outcome : s.phase = .done → s.res.resKind ≠ .none
  /-- The result fields are those of an outcome. -/
  sound : s.res.Sound s.params

/-- The capacity refusal (R139): the only state with no further step of the unit while busy (R287). -/
def State.stuck (s : State) : Prop := s.phase = .hdr ∧ 9 ≤ s.hcnt.toNat

/-- An event that the ports have: register accesses at multiples of 4 (R62) and payload accesses below the capacity (R63). -/
def Event.legal (p : Params) : Event → Bool
  | .regWrite off _ => off % 4 == 0
  | .regRead off => off % 4 == 0
  | .payloadWrite a _ => a < p.payloadCap.toNat
  | .payloadRead a => a < p.payloadCap.toNat
  | .offer _ => true
  | .setEoi _ => true
  | .reset => true
  | .unitTurn => true

/-- Whether the step to come is the decoder unit's. -/
def State.unitMoves (s : State) : Bool :=
  match s.inputs with
  | [] => true
  | e :: _ => e == .unitTurn

/-- The step to come with its event taken off the list. -/
def State.popped (s : State) : State := { s with inputs := s.inputs.tail }

/-- A step is safe to take: its event is one the ports have, and the decoder unit is not asked to move in the capacity refusal. -/
def State.ready (s : State) : Prop := (∀ e ∈ s.inputs.head?, e.legal s.params = true) ∧ (s.unitMoves = true → ¬ s.stuck)

/-! ### The claims' vocabulary -/

/-- The state that a command's end leaves (R238): the result fields are `r`, PHASE is DONE, and nothing else changes. -/
def State.ends (s : State) (r : ResultFields) : State := { s with phase := .done, res := r }

/-- The result fields of a connection-fatal protocol error (R236, fourth row). -/
def protocolError (p : Params) (reason : Reason) : ResultFields :=
  { resKind := .connError, reason := reason, action := .closeConn, errCode := p.errProtocol }

/-- The result fields of a frame-size error (R236, fifth row; R242). -/
def frameSizeError (p : Params) (reason : Reason) (observed expected : Nat) : ResultFields :=
  { resKind := .connError, reason := reason, action := .closeConn, frameSize := true, errCode := p.errFrameSize,
    errObs := BitVec.ofNat 24 observed, errExp := BitVec.ofNat 24 expected }

/-- The result fields of a stream error (R236, sixth row; R243). -/
def streamError (p : Params) (sid : BitVec 31) : ResultFields :=
  { resKind := .streamError, reason := .headersEmpty, action := .resetStream, errCode := p.errProtocol, errSid := sid }

/-- The result fields of a transport failure (R236, last row; R244). -/
def transportError (reason : Reason) (observed expected : Nat) : ResultFields :=
  { resKind := .transport, reason := reason, action := .closeSilent, errObs := BitVec.ofNat 24 observed,
    errExp := BitVec.ofNat 24 expected }

/-- The result fields of a frame outcome (R236, third row; R239). -/
def frameResult (kind : FrameKind) (fields : FrameFields) : ResultFields :=
  { resKind := .frame, frameKind := kind, frame := fields }

/-- PADDED is set in the header registers, by R128's test `(flags & F) != 0`. -/
def State.isPadded (s : State) : Bool := s.fh.flags &&& s.params.flags.padded != 0

/-- PRIORITY is set in the header registers, by R128's test. -/
def State.isPrio (s : State) : Bool := s.fh.flags &&& s.params.flags.priority != 0

/-- The same state with another flag byte in FH_FLAGS. -/
def State.withFlags (s : State) (f : Byte) : State := { s with fh := { s.fh with flags := f } }

/-- The targets of the dispatcher (R84). -/
def frameTargets (t : Byte) : List Instr :=
  [.parseData, .parseHeaders, .parsePriority, .parseRstStream, .parseSettings, .parsePushPromise, .passUnparsedPing,
    .passUnparsedGoaway, .passUnparsedWindowUpdate, .passUnparsedContinuation, .passUnknown t]

/-- Two header buffers hold the same first `k` bytes. -/
def sameUpTo (k : Nat) (h h' : Bytes9) : Prop := ∀ i, i < k → getByte9 h i = getByte9 h' i

/-- How many bytes of HDR_BUF a later step may read: those collected, while the header is being collected (R24, R138). -/
def State.hdrLive (s : State) : Nat := if s.phase = .hdr ∧ s.hcnt.toNat < 9 then s.hcnt.toNat else 0

end Sys2Proof.Machine
end

