-- ==== Sys2Proof/Certificates/Slice0/Obligations.lean ====
section
/-! DEFINITION. The statements for the provers. Each docstring names the rule of the spec that it formalises, or says that the
statement is derived. OBLIGATIONS.json lists them with their quotes. -/

open Sys2Proof Sys2Proof.Machine

/-! ### Encodings -/

/-- Words written out from the spec's two tables (section 6 and section 2 of `30_encoding.md`) decode to what they stand for. -/
def Obligations.SpecWordsDecode : Prop :=
  decode {} (.ctrl 0x00000001) = .readFrame ∧ decode {} (.ctrl 0xFFFFFFFC) = .encodeHeader ∧
  decode {} (.ctrl 0x0000000B) = .parse ∧ decode {} (.ctrl 0x00000006) = .reserved6 ∧
  decode {} (.frameType 0x00) = .parseData ∧ decode {} (.frameType 0x04) = .parseSettings ∧
  decode {} (.frameType 0x09) = .passUnparsedContinuation ∧ decode {} (.frameType 0x0A) = .passUnknown 0x0A ∧
  decodeTableWord 8 0x05 = some .parsePushPromise ∧ decodeTableWord 32 0x02 = some .decodeHeader

/-- Derived from R84, R85, R86 and R96: every word belongs to exactly one row of the opcode table, and the decoder gives that
row's instruction. -/
def Obligations.DecodeFollowsTheOpcodeTable : Prop :=
  ∀ e : Encoding,
    (∀ r ∈ ctrlRows ++ frameTypeRows, r.holds e = true → (decode {} e).mnemonic = r.mnemonic) ∧
    ((ctrlRows ++ frameTypeRows).filter (fun r => r.holds e)).length = 1

/-- Derived from R84 and R96: decoding undoes encoding for every well-formed instruction, whatever ten distinct values the build
gives the frame types. -/
def Obligations.DecodeUndoesEncode : Prop :=
  ∀ (tv : TypeValues) (i : Instr), tv.wf → i.wfFor tv = true → decode tv (encode tv i) = i

/-- Derived from R84, R85, R96, R97 and R100: encoding undoes decoding on every type byte, and on a command word up to its ignored
bits; and what decodes is well-formed. That the ignored bits [31:3] come back as 0 is THE MODEL'S CHOICE (log 10, DESIGN CHOICE, after
R100's word for a program line). -/
def Obligations.EncodeUndoesDecode : Prop :=
  ∀ tv : TypeValues,
    (∀ b : Byte, encode tv (decode tv (.frameType b)) = .frameType b) ∧
    (∀ w : Word, encode tv (decode tv (.ctrl w)) = .ctrl (w &&& 7)) ∧
    (∀ e : Encoding, (decode tv e).wfFor tv = true)

/-- R61: the value of a byte sequence is the sum of its bytes times powers of 256, the first byte the highest; so `n` bytes give an
`8 n`-bit value. With the rule's two examples. -/
def Obligations.BigEndianIsTheSum : Prop :=
  (∀ bs : List Byte,
    BE bs = ∑ k : Fin bs.length, bs[k].toNat * 256 ^ (bs.length - 1 - k.val) ∧ BE bs < 2 ^ (8 * bs.length)) ∧
  BE [0x00, 0x00, 0x05] = 5 ∧ BE [0x80, 0x00, 0x00, 0x01] = 0x80000001

/-! ### The header codec -/

/-- R120: the four fields of a header, by the values of its bytes. -/
def Obligations.HeaderFieldsFromWire : Prop :=
  ∀ h : Bytes9,
    (decodeHeader h).length.toNat = BE [h.b0, h.b1, h.b2] ∧ (decodeHeader h).typ = h.b3 ∧ (decodeHeader h).flags = h.b4 ∧
    (decodeHeader h).streamID.toNat = BE [h.b5, h.b6, h.b7, h.b8] &&& 0x7fffffff

/-- R126: the two round trips; the second gives the bytes back with the reserved bit cleared. -/
def Obligations.HeaderRoundTrips : Prop :=
  (∀ fh : FrameHeader, decodeHeader (encodeHeader fh) = fh) ∧
  (∀ b : Bytes9, b.b5.getLsbD 7 = false → encodeHeader (decodeHeader b) = b) ∧
  (∀ b : Bytes9, encodeHeader (decodeHeader b) = { b with b5 := b.b5 &&& 0x7f })

/-- Derived from R90, R123 and I6: flipping the reserved bit of the header bytes collected changes no step but in HDR_BUF itself. -/
def Obligations.ReservedBitNeverExposed : Prop :=
  ∀ (s t : State) (k : Byte), (k = 0 ∨ k = 0x80) → step s = .next t →
    ∃ t', step { s with hdrBuf := { s.hdrBuf with b5 := s.hdrBuf.b5 ^^^ k } } = .next t' ∧
      t' = { t with hdrBuf := t'.hdrBuf }

/-- R125: ENCODE_HEADER in IDLE or DONE, with the nine bytes given as the three ENC registers' values. -/
def Obligations.EncodeHeaderPacksTheRegisters : Prop :=
  ∀ s : State, s.phase.busy = false →
    ∃ e : Bytes9,
      exec .encodeHeader s =
        .next { s with enc := e, phase := .done, curCmd := 4, cmdRejected := false, res := { resKind := .encoded } } ∧
      BE [e.b0, e.b1, e.b2, e.b3] = s.fh.length.toNat * 256 + s.fh.typ.toNat ∧
      BE [e.b4, e.b5, e.b6, e.b7] = s.fh.flags.toNat * 2 ^ 24 + s.fh.streamID.toNat / 256 ∧
      e.b8.toNat = s.fh.streamID.toNat % 256 ∧ e.b5.getLsbD 7 = false

/-! ### Commands -/

/-- R97: CMD 0 is NOP and changes nothing; CMD 5, 6 and 7 set CMD_REJECTED and nothing else; bits [31:3] are ignored. -/
def Obligations.HintAndReservedCommands : Prop :=
  (∀ s : State, exec .nop s = .next s) ∧
  (∀ s : State, ∀ i ∈ [Instr.reserved5, .reserved6, .reserved7], exec i s = .next { s with cmdRejected := true }) ∧
  (∀ (tv : TypeValues) (w : Word),
    (w.toNat % 8 = 0 → decode tv (.ctrl w) = .nop) ∧ (w.toNat % 8 = 5 → decode tv (.ctrl w) = .reserved5) ∧
    (w.toNat % 8 = 6 → decode tv (.ctrl w) = .reserved6) ∧ (w.toNat % 8 = 7 → decode tv (.ctrl w) = .reserved7)) ∧
  (∀ (tv : TypeValues) (w w' : Word), w.toNat % 8 = w'.toNat % 8 → decode tv (.ctrl w) = decode tv (.ctrl w'))

/-- R44 and R262: what a CTRL write does, by its opcode and PHASE (the busy phases are HDR, PAY and EXEC); a rejection sets
CMD_REJECTED and changes nothing else. (PARSE
with FH_LEN above the capacity is accepted too; which state it then waits in is the subject of `CapacityRefusalIsStuck`.) -/
def Obligations.CtrlWriteRule : Prop :=
  ∀ (s : State) (v : Word) (rest : List Event), s.inputs = .regWrite 0x00 v :: rest →
    let p := { s with inputs := rest }
    let op := v.toNat % 8
    let a := { p with res := {}, cmdRejected := false, curCmd := BitVec.ofNat 3 op }
    (s.phase.busy = true ↔ s.phase = .hdr ∨ s.phase = .pay ∨ s.phase = .exec) ∧
    (op = 0 → step s = .next p) ∧
    (5 ≤ op → step s = .next { p with cmdRejected := true }) ∧
    (1 ≤ op → op ≤ 4 → s.phase.busy = true → step s = .next { p with cmdRejected := true }) ∧
    (op = 1 → s.phase.busy = false → step s = .next { a with phase := .hdr, hcnt := 0, pcnt := 0 }) ∧
    (op = 2 → s.phase.busy = false → step s = .next { a with phase := .hdr, hcnt := 0 }) ∧
    (op = 3 → s.phase.busy = false → s.fh.length.toNat ≤ s.params.payloadCap.toNat → step s = .next { a with phase := .exec }) ∧
    (op = 3 → s.phase.busy = false → s.params.payloadCap.toNat < s.fh.length.toNat →
      ∃ t, step s = .next t ∧ t = { a with phase := t.phase, hcnt := t.hcnt }) ∧
    (op = 4 → s.phase.busy = false →
      step s = .next { a with enc := encodeHeader s.fh, phase := .done, res := { resKind := .encoded } })

/-- Derived from R121, R135 and R145 (their acceptance): the three commands that need more steps start from IDLE and DONE. -/
def Obligations.CommandsStart : Prop :=
  ∀ s : State, s.phase.busy = false →
    exec .readFrame s =
      .next { s with phase := .hdr, hcnt := 0, pcnt := 0, curCmd := 1, cmdRejected := false, res := {} } ∧
    exec .decodeHeader s = .next { s with phase := .hdr, hcnt := 0, curCmd := 2, cmdRejected := false, res := {} } ∧
    (s.fh.length.toNat ≤ s.params.payloadCap.toNat →
      exec .parse s = .next { s with phase := .exec, curCmd := 3, cmdRejected := false, res := {} })

/-- Derived from R22, R139, R145, R287 and I14. PARSE of a frame above the capacity is accepted and leaves the refusal's state (the
model's reading of "as rule R139": log 8). In that state the unit's turn stops by name, `in_ready` is 0 (log 9), no event but
reset leaves it, and reset does. In every other state `in_ready` is 1 exactly when PHASE is HDR or PAY, as R22 says; so with the
default capacity R22 holds word for word in every state with the invariant. -/
def Obligations.CapacityRefusalIsStuck : Prop :=
  (∀ s : State, s.phase.busy = false → s.params.payloadCap.toNat < s.fh.length.toNat →
    ∃ t, exec .parse s = .next t ∧ t.stuck ∧
      t = { s with phase := .hdr, hcnt := 9, curCmd := 3, cmdRejected := false, res := {} }) ∧
  (∀ s : State, s.stuck → s.inReady = false ∧ (s.unitMoves = true → step s = .fault .capacityStuck)) ∧
  (∀ (s t : State) (e : Event) (rest : List Event), s.stuck → s.inputs = e :: rest → step s = .next t →
    (e = .reset → t.phase = .idle) ∧ (e ≠ .reset → t.stuck ∧ t.fh = s.fh)) ∧
  (∀ s : State, ¬ s.stuck → (s.inReady = true ↔ s.phase = .hdr ∨ s.phase = .pay)) ∧
  (∀ s : State, s.Inv → s.params.payloadCap = 16777215 → (s.inReady = true ↔ s.phase = .hdr ∨ s.phase = .pay))

/-- R146: no error is latched: what an accepted command or a parse does is the same whatever the result fields held. -/
def Obligations.NoErrorIsLatched : Prop :=
  ∀ (s : State) (r : ResultFields),
    (s.phase.busy = false → ∀ i ∈ [Instr.readFrame, .decodeHeader, .parse, .encodeHeader], ∀ b : Bool,
      exec i { s with res := r, cmdRejected := b } = exec i s) ∧
    (∀ t : Byte, ∀ i ∈ frameTargets t, exec i { s with res := r } = exec i s)

/-! ### The parsers -/

/-- R166: PARSE_DATA, in every state. END_STREAM and PADDED are read by R128's test, and two flag bytes that agree on those two
flags give the same outcome (R89). -/
def Obligations.ParseDataRule : Prop :=
  ∀ s : State,
    let n := s.fh.length.toNat
    let pad := (s.payloadByte 0).toNat
    let ended := s.fh.flags &&& s.params.flags.endStream != 0
    let defined := s.params.flags.endStream ||| s.params.flags.padded
    (s.fh.streamID ≠ 0 → s.isPadded = false →
      exec .parseData s =
        .next (s.ends (frameResult .data { contentOff := 0, contentLen := BitVec.ofNat 24 n, streamEnded := ended }))) ∧
    (s.fh.streamID ≠ 0 → s.isPadded = true → 1 ≤ n → pad ≤ n - 1 →
      exec .parseData s =
        .next (s.ends (frameResult .data
          { contentOff := 1, contentLen := BitVec.ofNat 24 (n - 1 - pad), padded := true, padLen := s.payloadByte 0,
            streamEnded := ended }))) ∧
    (s.fh.streamID = 0 → exec .parseData s = .next (s.ends (protocolError s.params .streamIdZero))) ∧
    (s.fh.streamID ≠ 0 → s.isPadded = true → n = 0 →
      exec .parseData s = .next (s.ends (transportError .fieldShort 0 1))) ∧
    (s.fh.streamID ≠ 0 → s.isPadded = true → 1 ≤ n → n - 1 < pad →
      exec .parseData s = .next (s.ends (protocolError s.params .padTooLong))) ∧
    (∀ f : Byte, f &&& defined = s.fh.flags &&& defined →
      ∃ r, exec .parseData s = .next (s.ends r) ∧ exec .parseData (s.withFlags f) = .next ((s.withFlags f).ends r))

/-- R172: PARSE_HEADERS, in every state. `o` is where the priority block starts and `off` where the fragment starts (R175). The
four flags of the type are read by R128's test, and two flag bytes that agree on them give the same outcome (R89). -/
def Obligations.ParseHeadersRule : Prop :=
  ∀ s : State,
    let n := s.fh.length.toNat
    let o := if s.isPadded then 1 else 0
    let off := o + if s.isPrio then 5 else 0
    let pad := if s.isPadded then (s.payloadByte 0).toNat else 0
    let b := s.payloadByte
    let defined := s.params.flags.endStream ||| s.params.flags.endHeaders ||| s.params.flags.padded ||| s.params.flags.priority
    (s.fh.streamID ≠ 0 → off + pad < n →
      exec .parseHeaders s =
        .next (s.ends (frameResult .headers
          { contentOff := BitVec.ofNat 24 off
            contentLen := BitVec.ofNat 24 (n - off - pad)
            padded := s.isPadded
            padLen := BitVec.ofNat 8 pad
            hasPrio := s.isPrio
            prioExcl := s.isPrio && (b o).getLsbD 7
            prioDep := if s.isPrio then BitVec.ofNat 31 (BE [b o, b (o + 1), b (o + 2), b (o + 3)]) else 0
            prioWeight := if s.isPrio then b (o + 4) else 0
            headersEnded := s.fh.flags &&& s.params.flags.endHeaders != 0
            streamEnded := s.fh.flags &&& s.params.flags.endStream != 0 }))) ∧
    (s.fh.streamID = 0 → exec .parseHeaders s = .next (s.ends (protocolError s.params .streamIdZero))) ∧
    (s.fh.streamID ≠ 0 → s.isPadded = true → n = 0 →
      exec .parseHeaders s = .next (s.ends (transportError .fieldShort 0 1))) ∧
    (s.fh.streamID ≠ 0 → s.isPrio = true → o ≤ n → n < o + 4 →
      exec .parseHeaders s = .next (s.ends (transportError .fieldShort (n - o) 4))) ∧
    (s.fh.streamID ≠ 0 → s.isPrio = true → n = o + 4 →
      exec .parseHeaders s = .next (s.ends (transportError .fieldShort 0 1))) ∧
    (s.fh.streamID ≠ 0 → off ≤ n → n ≤ off + pad →
      exec .parseHeaders s = .next (s.ends (streamError s.params s.fh.streamID))) ∧
    (∀ f : Byte, f &&& defined = s.fh.flags &&& defined →
      ∃ r, exec .parseHeaders s = .next (s.ends r) ∧ exec .parseHeaders (s.withFlags f) = .next ((s.withFlags f).ends r))

/-- R185: PARSE_PRIORITY, in every state: the stream ID is checked before the size. -/
def Obligations.ParsePriorityRule : Prop :=
  ∀ s : State,
    let n := s.fh.length.toNat
    let b := s.payloadByte
    (s.fh.streamID ≠ 0 → n = 5 →
      exec .parsePriority s =
        .next (s.ends (frameResult .priority
          { hasPrio := true, prioExcl := (b 0).getLsbD 7, prioDep := BitVec.ofNat 31 (BE [b 0, b 1, b 2, b 3]),
            prioWeight := b 4 }))) ∧
    (s.fh.streamID = 0 → exec .parsePriority s = .next (s.ends (protocolError s.params .streamIdZero))) ∧
    (s.fh.streamID ≠ 0 → n ≠ 5 → exec .parsePriority s = .next (s.ends (frameSizeError s.params .prioritySize n 5)))

/-- R190: PARSE_RST_STREAM, in every state, under either check order. -/
def Obligations.ParseRstStreamRule : Prop :=
  ∀ s : State,
    let n := s.fh.length.toNat
    let b := s.payloadByte
    (s.fh.streamID ≠ 0 → n = 4 →
      exec .parseRstStream s =
        .next (s.ends (frameResult .rstStream { rstCode := BitVec.ofNat 32 (BE [b 0, b 1, b 2, b 3]) }))) ∧
    (s.fh.streamID = 0 → n = 4 → exec .parseRstStream s = .next (s.ends (protocolError s.params .streamIdZero))) ∧
    (s.fh.streamID ≠ 0 → n ≠ 4 → exec .parseRstStream s = .next (s.ends (frameSizeError s.params .rstSize n 4))) ∧
    (s.fh.streamID = 0 → n ≠ 4 → s.params.rstCheckOrder = .sizeFirst →
      exec .parseRstStream s = .next (s.ends (frameSizeError s.params .rstSize n 4))) ∧
    (s.fh.streamID = 0 → n ≠ 4 → s.params.rstCheckOrder = .idFirst →
      exec .parseRstStream s = .next (s.ends (protocolError s.params .streamIdZero)))

/-- R202 (and R200's outcome): PARSE_SETTINGS, in every state, under either partial-entry policy. ACK is read by R128's test, and
two flag bytes that agree on it give the same outcome (R89). -/
def Obligations.ParseSettingsRule : Prop :=
  ∀ s : State,
    let n := s.fh.length.toNat
    let defined := s.params.flags.ack
    ((n % 6 = 0 ∨ s.params.settingsPartial = .truncate) →
      ∃ t, exec .parseSettings s = .next (s.ends t) ∧ t.resKind = .frame ∧ t.frameKind = .settings ∧
        t.frame.setCount.toNat = n / 6 ∧ t.frame.setRem.toNat = n % 6 ∧
        t.frame.ack = (s.fh.flags &&& s.params.flags.ack != 0) ∧
        t = frameResult .settings { setCount := t.frame.setCount, setRem := t.frame.setRem, ack := t.frame.ack }) ∧
    (n % 6 ≠ 0 → s.params.settingsPartial = .reject →
      exec .parseSettings s = .next (s.ends (frameSizeError s.params .settingsPartial n (n - n % 6)))) ∧
    (∀ f : Byte, f &&& defined = s.fh.flags &&& defined →
      ∃ r, exec .parseSettings s = .next (s.ends r) ∧ exec .parseSettings (s.withFlags f) = .next ((s.withFlags f).ends r))

/-- R210: PARSE_PUSH_PROMISE, in every state. `o` is where the promised-stream-ID word starts. END_HEADERS and PADDED are read by
R128's test, and two flag bytes that agree on those two flags give the same outcome (R89). -/
def Obligations.ParsePushPromiseRule : Prop :=
  ∀ s : State,
    let n := s.fh.length.toNat
    let o := if s.isPadded then 1 else 0
    let pad := if s.isPadded then (s.payloadByte 0).toNat else 0
    let b := s.payloadByte
    let defined := s.params.flags.endHeaders ||| s.params.flags.padded
    (s.fh.streamID ≠ 0 → o + 4 + pad ≤ n →
      exec .parsePushPromise s =
        .next (s.ends (frameResult .pushPromise
          { contentOff := BitVec.ofNat 24 (o + 4)
            contentLen := BitVec.ofNat 24 (n - (o + 4) - pad)
            padded := s.isPadded
            padLen := BitVec.ofNat 8 pad
            promisedSid := BitVec.ofNat 31 (BE [b o, b (o + 1), b (o + 2), b (o + 3)])
            headersEnded := s.fh.flags &&& s.params.flags.endHeaders != 0 }))) ∧
    (s.fh.streamID = 0 → exec .parsePushPromise s = .next (s.ends (protocolError s.params .streamIdZero))) ∧
    (s.fh.streamID ≠ 0 → s.isPadded = true → n = 0 →
      exec .parsePushPromise s = .next (s.ends (transportError .fieldShort 0 1))) ∧
    (s.fh.streamID ≠ 0 → o ≤ n → n < o + 4 →
      exec .parsePushPromise s = .next (s.ends (transportError .fieldShort (n - o) 4))) ∧
    (s.fh.streamID ≠ 0 → o + 4 ≤ n → n < o + 4 + pad →
      exec .parsePushPromise s = .next (s.ends (protocolError s.params .padTooLong))) ∧
    (∀ f : Byte, f &&& defined = s.fh.flags &&& defined →
      ∃ r, exec .parsePushPromise s = .next (s.ends r) ∧ exec .parsePushPromise (s.withFlags f) = .next ((s.withFlags f).ends r))

/-- R226 and R227: the pass-through targets, in every state: a view of the whole payload, and no failure. -/
def Obligations.PassThroughRule : Prop :=
  ∀ s : State,
    (∀ i ∈ [Instr.passUnparsedPing, .passUnparsedGoaway, .passUnparsedWindowUpdate, .passUnparsedContinuation],
      exec i s = .next (s.ends (frameResult .unparsed { contentOff := 0, contentLen := s.fh.length }))) ∧
    (∀ t : Byte,
      exec (.passUnknown t) s = .next (s.ends (frameResult .unknown { contentOff := 0, contentLen := s.fh.length })))

/-- R236: the error taxonomy encoder, row by row; a field that a row does not name is 0. -/
def Obligations.OutcomeEncoderTable : Prop :=
  ∀ p : Params,
    (∀ fh, encodeOutcome p (.header fh) = { resKind := .header }) ∧
    (∀ e, encodeOutcome p (.encoded e) = { resKind := .encoded }) ∧
    (∀ k f, encodeOutcome p (.frame k f) = { resKind := .frame, frameKind := k, frame := f }) ∧
    (∀ r, encodeOutcome p (.connErr .protocol r 0 0) =
      { resKind := .connError, reason := r, action := .closeConn, frameSize := false, errCode := p.errProtocol,
        errObs := 0, errExp := 0 }) ∧
    (∀ r obs exp, encodeOutcome p (.connErr .frameSize r obs exp) =
      { resKind := .connError, reason := r, action := .closeConn, frameSize := true, errCode := p.errFrameSize,
        errObs := BitVec.ofNat 24 obs, errExp := BitVec.ofNat 24 exp }) ∧
    (∀ sid code r, encodeOutcome p (.streamErr sid code r) =
      { resKind := .streamError, reason := r, action := .resetStream, errCode := code, errSid := sid }) ∧
    (∀ r obs exp, encodeOutcome p (.transport r obs exp) =
      { resKind := .transport, reason := r, action := .closeSilent, errObs := BitVec.ofNat 24 obs,
        errExp := BitVec.ofNat 24 exp })

/-- R165: after an error outcome of any parser every frame field is 0, and the FH registers keep the header. -/
def Obligations.ErrorWritesNoFrameField : Prop :=
  ∀ (s t : State) (u : Byte), ∀ i ∈ frameTargets u, exec i s = .next t →
    (t.res.resKind = .connError ∨ t.res.resKind = .streamError ∨ t.res.resKind = .transport) →
    t.res.frame = {} ∧ t.res.frameKind = .none ∧ t.fh = s.fh

/-- Derived from R164 ("For every frame outcome CONTENT_OFF + CONTENT_LEN <= n") and R10: every parser ends in a frame, a
connection error, a stream error or a transport failure, and its view lies inside the frame's payload. -/
def Obligations.ViewLiesInsideTheFrame : Prop :=
  ∀ (s t : State) (u : Byte), ∀ i ∈ frameTargets u, exec i s = .next t →
    t.phase = .done ∧
    (t.res.resKind = .frame ∨ t.res.resKind = .connError ∨ t.res.resKind = .streamError ∨ t.res.resKind = .transport) ∧
    t.res.frame.contentOff.toNat + t.res.frame.contentLen.toNat ≤ s.fh.length.toNat

/-- Derived from R65, R163, R175 and R225: what a parser answers depends on the first six payload bytes of the frame at most, so
never on content, on pad bytes, or on what PAYLOAD holds at and above FH_LEN. -/
def Obligations.ParsersReadAtMostSixBytes : Prop :=
  ∀ (p : Params) (fh : FrameHeader) (rd rd' : Nat → Byte),
    (∀ a, a < 6 → a < fh.length.toNat → rd a = rd' a) → parseFrame p fh rd = parseFrame p fh rd'

/-! ### Frames: what an instruction leaves alone -/

/-- Derived from R142, R165, R238 and R263: the EXEC step of every target writes the result fields and PHASE, and nothing else:
no header register, no byte of PAYLOAD, no other register. -/
def Obligations.FrameTargetsFrame : Prop :=
  ∀ (s t : State) (u : Byte), ∀ i ∈ frameTargets u, exec i s = .next t →
    t = { s with phase := t.phase, res := t.res } ∧ t.fh = s.fh ∧ t.enc = s.enc ∧ t.sqId = s.sqId ∧
    t.cmdRejected = s.cmdRejected ∧ (∀ a, t.payloadByte a = s.payloadByte a)

/-- Derived from R43, R44, R97, R121, R125, R135 and R145: what the commands leave alone, when exec gives a next state. -/
def Obligations.CommandsFrame : Prop :=
  ∀ s t : State,
    (exec .nop s = .next t → t = s) ∧
    (∀ i ∈ [Instr.reserved5, .reserved6, .reserved7], exec i s = .next t → t = { s with cmdRejected := t.cmdRejected }) ∧
    (exec .readFrame s = .next t →
      t = { s with phase := t.phase, hcnt := t.hcnt, pcnt := t.pcnt, curCmd := t.curCmd, res := t.res, cmdRejected := t.cmdRejected }) ∧
    (∀ i ∈ [Instr.decodeHeader, .parse], exec i s = .next t →
      t = { s with phase := t.phase, hcnt := t.hcnt, curCmd := t.curCmd, res := t.res, cmdRejected := t.cmdRejected }) ∧
    (exec .encodeHeader s = .next t →
      t = { s with phase := t.phase, enc := t.enc, curCmd := t.curCmd, res := t.res, cmdRejected := t.cmdRejected }) ∧
    (∀ i ∈ [Instr.nop, .reserved5, .reserved6, .reserved7, .readFrame, .decodeHeader, .parse, .encodeHeader],
      exec i s = .next t → t.fh = s.fh ∧ t.sqId = s.sqId ∧ t.hdrBuf = s.hdrBuf ∧ ∀ a, t.payloadByte a = s.payloadByte a)

/-! ### The byte input port -/

/-- R136: the header byte step, with what R138 does in the same step at the ninth byte. -/
def Obligations.HeaderByteStep : Prop :=
  ∀ (s : State) (b : Byte) (rest : List Byte), s.unitMoves = true → s.phase = .hdr → s.hcnt.toNat < 9 →
    s.source.bytes = b :: rest →
    let q := { s.popped with
      hdrBuf := setByte9 s.hdrBuf s.hcnt.toNat b, hcnt := s.hcnt + 1, source := ⟨rest, s.source.eoi⟩ }
    let fh := decodeHeader q.hdrBuf
    let q' := { q with fh := fh }
    s.inReady = true ∧
    (s.hcnt.toNat < 8 → step s = .next q) ∧
    (s.hcnt.toNat = 8 → s.curCmd = 2 → step s = .next (q'.ends { resKind := .header })) ∧
    (s.hcnt.toNat = 8 → s.curCmd ≠ 2 → s.params.payloadCap.toNat < fh.length.toNat → step s = .next q') ∧
    (s.hcnt.toNat = 8 → s.curCmd ≠ 2 → fh.length = 0 → step s = .next { q' with phase := .exec }) ∧
    (s.hcnt.toNat = 8 → s.curCmd ≠ 2 → fh.length.toNat ≤ s.params.payloadCap.toNat → fh.length ≠ 0 →
      step s = .next { q' with phase := .pay, pcnt := 0 })

/-- R140: the payload byte step, with `in_ready` 1: one byte stored at PCNT, every other byte of PAYLOAD kept. -/
def Obligations.PayloadByteStep : Prop :=
  ∀ (s : State) (b : Byte) (rest : List Byte), s.unitMoves = true → s.phase = .pay → s.source.bytes = b :: rest →
    s.inReady = true ∧ ∃ t, step s = .next t ∧
      t = { s.popped with payload := t.payload, pcnt := s.pcnt + 1, phase := t.phase, source := ⟨rest, s.source.eoi⟩ } ∧
      t.phase = (if s.pcnt + 1 = s.fh.length then .exec else .pay) ∧
      t.payloadByte s.pcnt.toNat = b ∧ (∀ a, a ≠ s.pcnt.toNat → t.payloadByte a = s.payloadByte a)

/-- R141 and R267 (and R138's second part): end of input ends the command with a transport failure, and counts only when no byte
is offered: while one is, `in_eoi` changes nothing. -/
def Obligations.EndOfInputOutcomes : Prop :=
  ∀ s : State, s.unitMoves = true →
    (s.phase = .hdr → s.hcnt.toNat < 9 → s.source = ⟨[], true⟩ →
      step s = .next (s.popped.ends (transportError .hdrShort s.hcnt.toNat 9))) ∧
    (s.phase = .pay → s.source = ⟨[], true⟩ →
      step s = .next (s.popped.ends (transportError .payloadShort s.pcnt.toNat s.fh.length.toNat))) ∧
    (∀ (b : Byte) (rest : List Byte) (v : Bool), s.inReady = true → s.source.bytes = b :: rest →
      ∃ t, step s = .next t ∧ t.source.bytes = rest ∧
        step { s with source := ⟨b :: rest, v⟩ } = .next { t with source := ⟨rest, v⟩ })

/-- Derived from R137, R281 and R300: in IDLE and DONE, and while the source is silent, no step of the unit is enabled. That the
unit's turn then answers a next state that is the same state is THE MODEL'S CHOICE (log 7, DESIGN CHOICE). -/
def Obligations.TheUnitWaits : Prop :=
  ∀ s : State, s.unitMoves = true →
    ((s.phase = .idle ∨ s.phase = .done) → step s = .next s.popped) ∧
    (((s.phase = .hdr ∧ s.hcnt.toNat < 9) ∨ s.phase = .pay) → s.source.bytes = [] → s.source.eoi = false →
      step s = .next s.popped)

/-- R137: a byte leaves the source exactly when a byte step takes it, which needs `in_ready`, and that is 0 in IDLE, EXEC and DONE;
otherwise the source's bytes stay (with none offered there is none after the unit's step either), but for one the source itself
offers behind them. Bytes are taken in order, one a step. -/
def Obligations.BytesLeaveOnlyByByteSteps : Prop :=
  ∀ s t : State, step s = .next t →
    ((s.phase = .idle ∨ s.phase = .exec ∨ s.phase = .done) → s.inReady = false) ∧
    (s.unitMoves = true → s.inReady = true → ∀ b rest, s.source.bytes = b :: rest → t.source.bytes = rest) ∧
    (s.unitMoves = true → s.source.bytes = [] → t.source.bytes = []) ∧
    ((s.unitMoves = false ∨ s.inReady = false) →
      (∀ b, s.inputs.head? ≠ some (.offer b)) → t.source.bytes = s.source.bytes) ∧
    (∀ b, s.inputs.head? = some (.offer b) → t.source.bytes = s.source.bytes ++ [b])

/-! ### Running: the step and the decoded instruction -/

/-- Derived from R44, R77, R142 and R143: a step runs the decoded instruction, on the state with the step's event taken off the
list: a CTRL write runs the command its word decodes to, and the unit's turn in EXEC runs the target that FH_TYPE decodes to. -/
def Obligations.StepRunsTheDecodedInstruction : Prop :=
  (∀ (s : State) (v : Word) (rest : List Event) (i : Instr), s.inputs = .regWrite 0x00 v :: rest →
    decode s.params.types (.ctrl v) = i → step s = exec i s.popped) ∧
  (∀ (s : State) (i : Instr), s.unitMoves = true → s.phase = .exec → decode s.params.types (.frameType s.fh.typ) = i →
    step s = exec i s.popped)

/-- Derived from the opcode table: a table word placed by `withFetchWord` is the instruction the very next step runs. That a word
of 8 bits is a type byte and a word of any other width (1 to 32) a CTRL word is THE MODEL'S CHOICE (log 5, DESIGN CHOICE). -/
def Obligations.FetchedWordRunsNext : Prop :=
  ∀ (s : State) (nbits w : Nat) (i : Instr), s.params.types = {} → decodeTableWord nbits w = some i →
    step (s.withFetchWord nbits w) =
      exec i (if nbits = 8 then { s with phase := .exec, fh := { s.fh with typ := BitVec.ofNat 8 w } } else s)

/-- R142: the EXEC step is one atomic step to DONE with the outcome that the dispatcher's function gives. -/
def Obligations.ExecStepIsParseFrame : Prop :=
  ∀ s : State, s.unitMoves = true → s.phase = .exec →
    step s = .next (s.popped.ends (encodeOutcome s.params (parseFrame s.params s.fh s.payloadByte)))

/-- Derived from R145, R142 and R299: PARSE, written in IDLE or DONE with no other event pending, ends in two steps in DONE with
the outcome of the frame that the FH registers and PAYLOAD hold; nothing else of the instance changes but CUR_CMD and CMD_REJECTED. -/
def Obligations.ParseCommandRuns : Prop :=
  ∀ (s : State) (v : Word), s.phase.busy = false → s.inputs = [.regWrite 0x00 v] → v.toNat % 8 = 3 →
    s.fh.length.toNat ≤ s.params.payloadCap.toNat →
    core.run 2 s =
      .next { s with
        inputs := [], phase := .done, curCmd := 3, cmdRejected := false,
        res := encodeOutcome s.params (parseFrame s.params s.fh s.payloadByte) }

/-- R149: READ_FRAME of a finite byte sequence followed by end of input ends in the outcome of the pure form and has consumed its
bytes. For every state in IDLE or DONE whose frame, if the sequence holds a whole header, fits the buffer. -/
def Obligations.ReadFrameRefinesThePureForm : Prop :=
  ∀ (s : State) (v : Word), s.phase.busy = false → s.inputs = [.regWrite 0x00 v] → v.toNat % 8 = 1 → s.source.eoi = true →
    (9 ≤ s.source.bytes.length → (headOf s.source.bytes).length.toNat ≤ s.params.payloadCap.toNat) →
    ∃ (k : Nat) (t : State), core.run k s = .next t ∧ t.phase = .done ∧
      t.res = encodeOutcome s.params (readFrame s.params s.source.bytes) ∧
      t.source.bytes = s.source.bytes.drop (consumed s.source.bytes) ∧
      (9 ≤ s.source.bytes.length → t.fh = headOf s.source.bytes) ∧ (s.source.bytes.length < 9 → t.fh = s.fh) ∧
      t.enc = s.enc ∧ t.sqId = s.sqId ∧ t.params = s.params ∧ t.cmdRejected = false

/-- R299 (its READ_FRAME line, derived from R135 to R142): a whole frame takes its acceptance, `9 + length` byte steps and one EXEC
step; then PAYLOAD holds the frame's bytes below FH_LEN and what it held before at and above. -/
def Obligations.ReadFrameStepCount : Prop :=
  ∀ (s : State) (v : Word), s.phase.busy = false → s.inputs = [.regWrite 0x00 v] → v.toNat % 8 = 1 →
    9 + (headOf s.source.bytes).length.toNat ≤ s.source.bytes.length →
    (headOf s.source.bytes).length.toNat ≤ s.params.payloadCap.toNat →
    ∃ t : State, core.run (1 + (9 + (headOf s.source.bytes).length.toNat) + 1) s = .next t ∧ t.phase = .done ∧
      t.res = encodeOutcome s.params
        (parseFrame s.params (headOf s.source.bytes) (fun a => s.source.bytes.getD (9 + a) 0)) ∧
      (∀ a, a < (headOf s.source.bytes).length.toNat → t.payloadByte a = s.source.bytes.getD (9 + a) 0) ∧
      (∀ a, (headOf s.source.bytes).length.toNat ≤ a → t.payloadByte a = s.payloadByte a)

/-- R121 (and R296's first sentence): DECODE_HEADER takes exactly nine bytes, writes the FH registers, leaves PAYLOAD alone and ends
in a Header outcome. -/
def Obligations.DecodeHeaderTakesNineBytes : Prop :=
  ∀ (s : State) (v : Word), s.phase.busy = false → s.inputs = [.regWrite 0x00 v] → v.toNat % 8 = 2 →
    9 ≤ s.source.bytes.length →
    core.run 10 s =
      .next { s with
        inputs := [], phase := .done, curCmd := 2, cmdRejected := false, hcnt := 9, hdrBuf := headBytes9 s.source.bytes,
        fh := headOf s.source.bytes, res := { resKind := .header }, source := ⟨s.source.bytes.drop 9, s.source.eoi⟩ }

/-! ### Settings -/

/-- R206: the lookup, last entry first, is the mapping built first to last. -/
def Obligations.SettingsLookupIsTheMapping : Prop :=
  ∀ (rd : Nat → Byte) (k : Nat) (id : BitVec 16), settingsLookup rd k id = (settingsMap rd k).lookup id

/-- R201 and R207: the mapping has one entry for each distinct ID, with the value of the last entry in byte order that has it; with
distinct IDs it has as many entries as the payload. -/
def Obligations.SettingsMappingLaw : Prop :=
  ∀ (rd : Nat → Byte) (k : Nat),
    ((settingsMap rd k).map Prod.fst).Nodup ∧
    (∀ (id : BitVec 16) (v : Word), (id, v) ∈ settingsMap rd k ↔
      ∃ i, i < k ∧ settingId rd i = id ∧ settingValue rd i = v ∧ ∀ j, i < j → j < k → settingId rd j ≠ id) ∧
    (settingsMap rd k).length = ((List.range k).map (settingId rd)).dedup.length ∧
    ((∀ i j, i < j → j < k → settingId rd i ≠ settingId rd j) → (settingsMap rd k).length = k)

/-- R206: what STATUS bit 18 and SQ_VALUE read: after a Settings frame the last of its SET_COUNT entries with the asked ID, taken
from PAYLOAD as it is at the read, which is what the mapping of R201 gives for it; otherwise 0. -/
def Obligations.SettingsQueryRegisters : Prop :=
  ∀ s : State,
    let settings := s.res.resKind = .frame ∧ s.res.frameKind = .settings
    let k := s.res.frame.setCount.toNat
    let b := s.payloadByte
    let id := fun i : Nat => BE [b (6 * i), b (6 * i + 1)]
    let value := fun i : Nat => BE [b (6 * i + 2), b (6 * i + 3), b (6 * i + 4), b (6 * i + 5)]
    (∀ i, settings → i < k → id i = s.sqId.toNat → (∀ j, i < j → j < k → id j ≠ s.sqId.toNat) →
      (s.regRead 0x04).getLsbD 18 = true ∧ (s.regRead 0x4C).toNat = value i) ∧
    ((¬ settings ∨ ∀ i, i < k → id i ≠ s.sqId.toNat) →
      (s.regRead 0x04).getLsbD 18 = false ∧ s.regRead 0x4C = 0) ∧
    (settings →
      (s.regRead 0x04).getLsbD 18 = ((settingsMap b k).lookup s.sqId).isSome ∧
      s.regRead 0x4C = ((settingsMap b k).lookup s.sqId).getD 0)

/-! ### The register port and the payload port -/

/-- Derived from R23, R30 to R35, R240, R241 and the map of `10_state.md` section 4: the bits of STATUS, with the number of every
value of PHASE, RES_KIND, FRAME_KIND, REASON and ACTION. -/
def Obligations.StatusRegisterBits : Prop :=
  ∀ s : State,
    let w := s.regRead 0x04
    w.extractLsb' 0 3 = (match s.phase with
      | .idle => 0
      | .hdr => 1
      | .pay => 2
      | .exec => 3
      | .done => 4) ∧
    w.extractLsb' 3 3 = (match s.res.resKind with
      | .none => 0
      | .frame => 1
      | .connError => 2
      | .streamError => 3
      | .transport => 4
      | .header => 5
      | .encoded => 6) ∧
    w.extractLsb' 6 4 = (match s.res.frameKind with
      | .none => 0
      | .data => 1
      | .headers => 2
      | .priority => 3
      | .rstStream => 4
      | .settings => 5
      | .pushPromise => 6
      | .unparsed => 7
      | .unknown => 8) ∧
    w.extractLsb' 10 4 = (match s.res.reason with
      | .none => 0
      | .hdrShort => 1
      | .payloadShort => 2
      | .fieldShort => 3
      | .streamIdZero => 4
      | .padTooLong => 5
      | .prioritySize => 6
      | .rstSize => 7
      | .headersEmpty => 8
      | .settingsPartial => 9) ∧
    w.extractLsb' 14 2 = (match s.res.action with
      | .none => 0
      | .closeConn => 1
      | .resetStream => 2
      | .closeSilent => 3) ∧
    w.getLsbD 16 = s.res.frameSize ∧
    w.getLsbD 17 = s.cmdRejected ∧ w.getLsbD 18 = s.sqPresent ∧ w.extractLsb' 19 13 = 0

/-- Derived from R36 to R42 and the map of `10_state.md` section 4: the bits of the frame-field registers. -/
def Obligations.FrameFieldRegisterBits : Prop :=
  ∀ s : State,
    let f := s.res.frame
    let g := s.regRead 0x30
    let x := s.regRead 0x38
    let p := s.regRead 0x2C
    g.extractLsb' 0 8 = f.padLen ∧ g.extractLsb' 8 8 = f.prioWeight ∧ g.getLsbD 16 = f.padded ∧ g.getLsbD 17 = f.hasPrio ∧
    g.getLsbD 18 = f.headersEnded ∧ g.getLsbD 19 = f.streamEnded ∧ g.getLsbD 20 = f.ack ∧ g.extractLsb' 21 11 = 0 ∧
    x.extractLsb' 0 22 = f.setCount ∧ x.extractLsb' 22 2 = 0 ∧ x.extractLsb' 24 3 = f.setRem ∧ x.extractLsb' 27 5 = 0 ∧
    p.getLsbD 31 = f.prioExcl ∧
    p.extractLsb' 0 31 = (if s.res.frameKind = .pushPromise then f.promisedSid else f.prioDep) ∧
    (s.regRead 0x24).toNat = f.contentOff.toNat ∧ (s.regRead 0x28).toNat = f.contentLen.toNat ∧ s.regRead 0x34 = f.rstCode ∧
    s.regRead 0x14 = s.res.errCode ∧ (s.regRead 0x18).toNat = s.res.errSid.toNat ∧
    (s.regRead 0x1C).toNat = s.res.errObs.toNat ∧ (s.regRead 0x20).toNat = s.res.errExp.toNat

/-- R45 and R46: the writable registers, read back. The header registers take a write in IDLE and DONE and ignore it in a busy
phase; bit 31 of FH_SID is discarded; SQ_ID takes a write in every phase. -/
def Obligations.WritableRegisters : Prop :=
  ∀ (s : State) (off : Nat) (v : Word) (rest : List Event), s.inputs = .regWrite off v :: rest →
    let q := { s with inputs := rest }
    (s.phase.busy = false → off = 0x08 →
      step s = .next { q with fh := { s.fh with length := v.extractLsb' 0 24 } }) ∧
    (s.phase.busy = false → off = 0x0C →
      step s = .next { q with fh := { s.fh with typ := v.extractLsb' 0 8, flags := v.extractLsb' 8 8 } }) ∧
    (s.phase.busy = false → off = 0x10 →
      step s = .next { q with fh := { s.fh with streamID := v.extractLsb' 0 31 } }) ∧
    (s.phase.busy = true → (off = 0x08 ∨ off = 0x0C ∨ off = 0x10) → step s = .next q) ∧
    (off = 0x48 → step s = .next { q with sqId := v.extractLsb' 0 16 })

/-- Derived from `10_state.md` section 4, I17, R28, R45 and R47: a read-only register and an offset that the map does not list ignore
writes; an unlisted offset and CTRL read 0; what FH_LEN, FH_TF and FH_SID read is what they hold, the other bits 0; ENC0, ENC1 and
ENC2 read the nine bytes of ENC, the first byte of each register in bits [31:24], and bits [23:0] of ENC2 read 0. -/
def Obligations.ReadOnlyAndUnlistedOffsets : Prop :=
  (∀ (s : State) (off : Nat) (v : Word) (rest : List Event), s.inputs = .regWrite off v :: rest → off % 4 = 0 →
    off ∉ [0x00, 0x08, 0x0C, 0x10, 0x48] → step s = .next { s with inputs := rest }) ∧
  (∀ (s : State) (off : Nat), (off = 0 ∨ 0x4C < off ∨ off % 4 ≠ 0) → s.regRead off = 0) ∧
  (∀ s : State, (s.regRead 0x08).toNat = s.fh.length.toNat ∧
    (s.regRead 0x0C).toNat = s.fh.typ.toNat + 256 * s.fh.flags.toNat ∧ (s.regRead 0x10).toNat = s.fh.streamID.toNat ∧
    (s.regRead 0x48).toNat = s.sqId.toNat) ∧
  (∀ s : State,
    let x := s.regRead 0x3C
    let y := s.regRead 0x40
    let z := s.regRead 0x44
    x.extractLsb' 24 8 = s.enc.b0 ∧ x.extractLsb' 16 8 = s.enc.b1 ∧ x.extractLsb' 8 8 = s.enc.b2 ∧ x.extractLsb' 0 8 = s.enc.b3 ∧
    y.extractLsb' 24 8 = s.enc.b4 ∧ y.extractLsb' 16 8 = s.enc.b5 ∧ y.extractLsb' 8 8 = s.enc.b6 ∧ y.extractLsb' 0 8 = s.enc.b7 ∧
    z.extractLsb' 24 8 = s.enc.b8 ∧ z.extractLsb' 0 24 = 0)

/-- R47 (and R62's refusal): a register read gives the host its value and changes nothing of the instance; only offsets that are
multiples of 4 exist. -/
def Obligations.RegisterReadsHaveNoSideEffect : Prop :=
  ∀ (s : State) (off : Nat) (rest : List Event), s.inputs = .regRead off :: rest →
    (off % 4 = 0 → step s = .next { s with inputs := rest, hostReads := .reg off (s.regRead off) :: s.hostReads }) ∧
    (off % 4 ≠ 0 → step s = .refused .registerOffset)

/-- R63: the host's payload port. A write lands in IDLE and DONE only and changes one byte; a read is allowed in every phase and
has no side effect; an address at or beyond the capacity is refused. -/
def Obligations.PayloadPortRule : Prop :=
  ∀ (s : State) (a : Nat) (v : Byte) (rest : List Event),
    (s.inputs = .payloadWrite a v :: rest → a < s.params.payloadCap.toNat → s.phase.busy = false →
      ∃ t, step s = .next t ∧ t = { s with inputs := rest, payload := t.payload } ∧ t.payloadByte a = v ∧
        ∀ b, b ≠ a → t.payloadByte b = s.payloadByte b) ∧
    (s.inputs = .payloadWrite a v :: rest → a < s.params.payloadCap.toNat → s.phase.busy = true →
      step s = .next { s with inputs := rest }) ∧
    (s.inputs = .payloadRead a :: rest → a < s.params.payloadCap.toNat →
      step s = .next { s with inputs := rest, hostReads := .payload a (s.payloadByte a) :: s.hostReads }) ∧
    ((s.inputs = .payloadWrite a v :: rest ∨ s.inputs = .payloadRead a :: rest) → s.params.payloadCap.toNat ≤ a →
      step s = .refused .payloadAddress)

/-! ### Whole-machine rules -/

/-- R291 (with R238): the result fields change only when a command 1 to 4 is accepted, when an outcome is raised from a busy phase,
and at reset. -/
def Obligations.ResultsAreStable : Prop :=
  ∀ s t : State, step s = .next t → t.res ≠ s.res →
    (s.phase.busy = false ∧ ∃ v rest, s.inputs = .regWrite 0x00 v :: rest ∧ 1 ≤ v.toNat % 8 ∧ v.toNat % 8 ≤ 4) ∨
    (s.unitMoves = true ∧ s.phase.busy = true ∧ t.phase = .done) ∨ (∃ rest, s.inputs = .reset :: rest)

/-- R127: the header registers change only at the ninth header byte, by a host write in IDLE or DONE, and at reset. -/
def Obligations.HeaderRegistersWrittenOnlyByDecodeAndHost : Prop :=
  ∀ s t : State, step s = .next t → t.fh ≠ s.fh →
    (s.unitMoves = true ∧ s.phase = .hdr ∧ s.hcnt.toNat = 8 ∧ t.fh = decodeHeader t.hdrBuf) ∨
    (s.phase.busy = false ∧ ∃ off v rest, s.inputs = .regWrite off v :: rest ∧ (off = 0x08 ∨ off = 0x0C ∨ off = 0x10)) ∨
    (∃ rest, s.inputs = .reset :: rest)

/-- Derived from R28, R46 and R288: ENC is written only by an accepted ENCODE_HEADER and by reset, SQ_ID only by a host write to it
and by reset, and the build's parameters by nothing. -/
def Obligations.EncSqIdAndParametersWriters : Prop :=
  ∀ s t : State, step s = .next t →
    t.params = s.params ∧
    (t.enc ≠ s.enc → (∃ rest, s.inputs = .reset :: rest) ∨
      (s.phase.busy = false ∧ ∃ v rest, s.inputs = .regWrite 0x00 v :: rest ∧ v.toNat % 8 = 4)) ∧
    (t.sqId ≠ s.sqId → (∃ rest, s.inputs = .reset :: rest) ∨ ∃ v rest, s.inputs = .regWrite 0x48 v :: rest)

/-- Derived from R27, R63, R140 and R292: a byte of PAYLOAD changes only by the payload byte step that stores to its address, by a
host write to it in IDLE or DONE, and at reset. -/
def Obligations.PayloadWriters : Prop :=
  ∀ (s t : State) (a : Nat), step s = .next t → t.payloadByte a ≠ s.payloadByte a →
    (s.unitMoves = true ∧ s.phase = .pay ∧ s.pcnt.toNat = a ∧ ∃ rest, s.source.bytes = t.payloadByte a :: rest) ∨
    (s.phase.busy = false ∧ ∃ rest, s.inputs = .payloadWrite a (t.payloadByte a) :: rest) ∨
    (∃ rest, s.inputs = .reset :: rest)

/-- Derived from R24 and I4: HDR_BUF is not observable. Two states that differ only in HDR_BUF bytes not yet collected stop alike or
step to states that differ only in such bytes. -/
def Obligations.HdrBufIsUnobservable : Prop :=
  ∀ (s : State) (h : Bytes9), sameUpTo s.hdrLive s.hdrBuf h →
    match step s, step { s with hdrBuf := h } with
    | .next t, .next t' => t' = { t with hdrBuf := t'.hdrBuf } ∧ sameUpTo t.hdrLive t.hdrBuf t'.hdrBuf
    | .fault r, .fault r' => r = r'
    | .refused r, .refused r' => r = r'
    | _, _ => False

/-- The invariant holds at reset, for every build. -/
def Obligations.ResetHasTheInvariant : Prop := ∀ p : Params, State.Inv { State.reset with params := p }

/-- Derived from R23, R24, R25, R30 to R34, R43, R138 to R140, R164, R165, R236, R237 and R241: every step keeps the invariant:
PAYLOAD in canonical form and inside its capacity, the counters in their ranges, the command that fits the phase, result fields 0
outside DONE, and in DONE those of exactly one outcome. That an accepted PARSE above the capacity waits in HDR with HCNT 9, and so
the clauses `stuckCmd` (CUR_CMD 3 there) and `exec` (an EXEC frame always fits), is THE MODEL'S READING of "as rule R139" (log 8,
DEDUCED). -/
def Obligations.StepKeepsTheInvariant : Prop := ∀ s t : State, s.Inv → step s = .next t → t.Inv

/-- Derived from R139, R62, R63 and R276 ("No access faults"): a step answers a next state exactly when the event is one the ports
have and the unit is not asked to move in the capacity refusal. That a turn of the unit with no step enabled (R281, R287) still
answers a next state is THE MODEL'S CHOICE (log 7, DESIGN CHOICE). -/
def Obligations.StepAnswersExactlyWhenReady : Prop := ∀ s : State, s.ready ↔ ∃ t, step s = .next t

/-- Derived from R285, R286 and R288: reset, at power-on and in any state. Every register of the map reads 0 and the outputs are 0
(R285); the bytes not yet consumed stay with the source (R286) and the parameters stay (R288). That the source's end-of-input level
stays too is THE MODEL'S CHOICE (log 15, DESIGN CHOICE). -/
def Obligations.ResetRule : Prop :=
  (∀ (p : Params) (off : Nat), ({ State.reset with params := p } : State).regRead off = 0) ∧
  ∀ (s : State) (rest : List Event), s.inputs = .reset :: rest →
    ∃ t, step s = .next t ∧ (∀ off, t.regRead off = 0) ∧ t.phase = .idle ∧ t.curCmd = 0 ∧ t.hcnt = 0 ∧ t.pcnt = 0 ∧
      t.fh = ⟨0, 0, 0, 0⟩ ∧ t.enc = Bytes9.zero ∧ t.sqId = 0 ∧ t.res = {} ∧ t.cmdRejected = false ∧ t.inReady = false ∧
      t.doneOutput = false ∧ t.source = s.source ∧ t.params = s.params

/-- Derived from R22 and R270: `done` is 1 exactly when PHASE is DONE, and it drops only at the acceptance of a command 1 to 3
(ENCODE_HEADER ends in its own acceptance step, R125) and at reset. -/
def Obligations.DoneDropsOnlyAtAcceptance : Prop :=
  (∀ s : State, s.doneOutput = true ↔ s.phase = .done) ∧
  ∀ s t : State, step s = .next t → s.doneOutput = true → t.doneOutput = false →
    (∃ v rest, s.inputs = .regWrite 0x00 v :: rest ∧ 1 ≤ v.toNat % 8 ∧ v.toNat % 8 ≤ 3) ∨ (∃ rest, s.inputs = .reset :: rest)

/-- Derived from R274: a step of one instance never affects another, and is that instance's own step. -/
def Obligations.InstancesAreIndependent : Prop :=
  ∀ (p q : Platform) (k : Nat), p.step k = some (.next q) →
    q.length = p.length ∧ (∀ j, j ≠ k → q[j]? = p[j]?) ∧
    (∃ x y, p[k]? = some x ∧ q[k]? = some y ∧ step x.inst = .next y.inst ∧ y.regBase = x.regBase)

/-- R246 with the table of R98: the display name of every 32-bit code: the fourteen names, and for every other code the fixed
text and the raw value in lowercase hexadecimal without leading zeros. -/
def Obligations.ErrCodeDisplayNames : Prop :=
  errCodeName 0x0 = "NO_ERROR" ∧ errCodeName 0x1 = "PROTOCOL_ERROR" ∧ errCodeName 0x2 = "INTERNAL_ERROR" ∧
  errCodeName 0x3 = "FLOW_CONTROL_ERROR" ∧ errCodeName 0x4 = "SETTINGS_TIMEOUT" ∧ errCodeName 0x5 = "STREAM_CLOSED" ∧
  errCodeName 0x6 = "FRAME_SIZE_ERROR" ∧ errCodeName 0x7 = "REFUSED_STREAM" ∧ errCodeName 0x8 = "CANCEL" ∧
  errCodeName 0x9 = "COMPRESSION_ERROR" ∧ errCodeName 0xa = "CONNECT_ERROR" ∧ errCodeName 0xb = "ENHANCE_YOUR_CALM" ∧
  errCodeName 0xc = "INADEQUATE_SECURITY" ∧ errCodeName 0xd = "HTTP_1_1_REQUIRED" ∧
  (∀ c : Word, 14 ≤ c.toNat →
    ∃ (d : Nat) (ds : List Nat), d ≠ 0 ∧ (∀ x ∈ d :: ds, x < 16) ∧ (d :: ds).foldl (fun acc x => acc * 16 + x) 0 = c.toNat ∧
      errCodeName c = "unknown error code 0x" ++ String.ofList ((d :: ds).map fun x =>
        ['0', '1', '2', '3', '4', '5', '6', '7', '8', '9', 'a', 'b', 'c', 'd', 'e', 'f'].getD x '?'))
end

