-- ==== Sys2Proof/Laws/State.lean ====
section
/-! SUPPORT. One lemma for each field of `State` under each shared update, true by rfl, so that no proof unfolds a record update. -/

namespace Sys2Proof.Machine

variable (s : State) (o : CommandOutcome) (op : BitVec 3) (a : Nat) (v : Byte) (r : HostRead) (q : ResultFields)

/-! ### `finish` -/

@[simp] theorem State.finish_params : (s.finish o).params = s.params := rfl
@[simp] theorem State.finish_phase : (s.finish o).phase = .done := rfl
@[simp] theorem State.finish_curCmd : (s.finish o).curCmd = s.curCmd := rfl
@[simp] theorem State.finish_hdrBuf : (s.finish o).hdrBuf = s.hdrBuf := rfl
@[simp] theorem State.finish_hcnt : (s.finish o).hcnt = s.hcnt := rfl
@[simp] theorem State.finish_pcnt : (s.finish o).pcnt = s.pcnt := rfl
@[simp] theorem State.finish_fh : (s.finish o).fh = s.fh := rfl
@[simp] theorem State.finish_payload : (s.finish o).payload = s.payload := rfl
@[simp] theorem State.finish_enc : (s.finish o).enc = s.enc := rfl
@[simp] theorem State.finish_sqId : (s.finish o).sqId = s.sqId := rfl
@[simp] theorem State.finish_res : (s.finish o).res = encodeOutcome s.params o := rfl
@[simp] theorem State.finish_cmdRejected : (s.finish o).cmdRejected = s.cmdRejected := rfl
@[simp] theorem State.finish_source : (s.finish o).source = s.source := rfl
@[simp] theorem State.finish_inputs : (s.finish o).inputs = s.inputs := rfl
@[simp] theorem State.finish_hostReads : (s.finish o).hostReads = s.hostReads := rfl
@[simp] theorem State.finish_resetEpoch : (s.finish o).resetEpoch = s.resetEpoch := rfl

/-! ### `accept` -/

@[simp] theorem State.accept_params : (s.accept op).params = s.params := rfl
@[simp] theorem State.accept_phase : (s.accept op).phase = s.phase := rfl
@[simp] theorem State.accept_curCmd : (s.accept op).curCmd = op := rfl
@[simp] theorem State.accept_hdrBuf : (s.accept op).hdrBuf = s.hdrBuf := rfl
@[simp] theorem State.accept_hcnt : (s.accept op).hcnt = s.hcnt := rfl
@[simp] theorem State.accept_pcnt : (s.accept op).pcnt = s.pcnt := rfl
@[simp] theorem State.accept_fh : (s.accept op).fh = s.fh := rfl
@[simp] theorem State.accept_payload : (s.accept op).payload = s.payload := rfl
@[simp] theorem State.accept_enc : (s.accept op).enc = s.enc := rfl
@[simp] theorem State.accept_sqId : (s.accept op).sqId = s.sqId := rfl
@[simp] theorem State.accept_res : (s.accept op).res = {} := rfl
@[simp] theorem State.accept_cmdRejected : (s.accept op).cmdRejected = false := rfl
@[simp] theorem State.accept_source : (s.accept op).source = s.source := rfl
@[simp] theorem State.accept_inputs : (s.accept op).inputs = s.inputs := rfl
@[simp] theorem State.accept_hostReads : (s.accept op).hostReads = s.hostReads := rfl
@[simp] theorem State.accept_resetEpoch : (s.accept op).resetEpoch = s.resetEpoch := rfl

/-! ### `reject` -/

@[simp] theorem State.reject_params : (s.reject).params = s.params := rfl
@[simp] theorem State.reject_phase : (s.reject).phase = s.phase := rfl
@[simp] theorem State.reject_curCmd : (s.reject).curCmd = s.curCmd := rfl
@[simp] theorem State.reject_hdrBuf : (s.reject).hdrBuf = s.hdrBuf := rfl
@[simp] theorem State.reject_hcnt : (s.reject).hcnt = s.hcnt := rfl
@[simp] theorem State.reject_pcnt : (s.reject).pcnt = s.pcnt := rfl
@[simp] theorem State.reject_fh : (s.reject).fh = s.fh := rfl
@[simp] theorem State.reject_payload : (s.reject).payload = s.payload := rfl
@[simp] theorem State.reject_enc : (s.reject).enc = s.enc := rfl
@[simp] theorem State.reject_sqId : (s.reject).sqId = s.sqId := rfl
@[simp] theorem State.reject_res : (s.reject).res = s.res := rfl
@[simp] theorem State.reject_cmdRejected : (s.reject).cmdRejected = true := rfl
@[simp] theorem State.reject_source : (s.reject).source = s.source := rfl
@[simp] theorem State.reject_inputs : (s.reject).inputs = s.inputs := rfl
@[simp] theorem State.reject_hostReads : (s.reject).hostReads = s.hostReads := rfl
@[simp] theorem State.reject_resetEpoch : (s.reject).resetEpoch = s.resetEpoch := rfl

/-! ### `writePayload` -/

@[simp] theorem State.writePayload_params : (s.writePayload a v).params = s.params := rfl
@[simp] theorem State.writePayload_phase : (s.writePayload a v).phase = s.phase := rfl
@[simp] theorem State.writePayload_curCmd : (s.writePayload a v).curCmd = s.curCmd := rfl
@[simp] theorem State.writePayload_hdrBuf : (s.writePayload a v).hdrBuf = s.hdrBuf := rfl
@[simp] theorem State.writePayload_hcnt : (s.writePayload a v).hcnt = s.hcnt := rfl
@[simp] theorem State.writePayload_pcnt : (s.writePayload a v).pcnt = s.pcnt := rfl
@[simp] theorem State.writePayload_fh : (s.writePayload a v).fh = s.fh := rfl
@[simp] theorem State.writePayload_payload : (s.writePayload a v).payload = Memory.write s.payload a v := rfl
@[simp] theorem State.writePayload_enc : (s.writePayload a v).enc = s.enc := rfl
@[simp] theorem State.writePayload_sqId : (s.writePayload a v).sqId = s.sqId := rfl
@[simp] theorem State.writePayload_res : (s.writePayload a v).res = s.res := rfl
@[simp] theorem State.writePayload_cmdRejected : (s.writePayload a v).cmdRejected = s.cmdRejected := rfl
@[simp] theorem State.writePayload_source : (s.writePayload a v).source = s.source := rfl
@[simp] theorem State.writePayload_inputs : (s.writePayload a v).inputs = s.inputs := rfl
@[simp] theorem State.writePayload_hostReads : (s.writePayload a v).hostReads = s.hostReads := rfl
@[simp] theorem State.writePayload_resetEpoch : (s.writePayload a v).resetEpoch = s.resetEpoch := rfl

/-! ### `answerHost` -/

@[simp] theorem State.answerHost_params : (s.answerHost r).params = s.params := rfl
@[simp] theorem State.answerHost_phase : (s.answerHost r).phase = s.phase := rfl
@[simp] theorem State.answerHost_curCmd : (s.answerHost r).curCmd = s.curCmd := rfl
@[simp] theorem State.answerHost_hdrBuf : (s.answerHost r).hdrBuf = s.hdrBuf := rfl
@[simp] theorem State.answerHost_hcnt : (s.answerHost r).hcnt = s.hcnt := rfl
@[simp] theorem State.answerHost_pcnt : (s.answerHost r).pcnt = s.pcnt := rfl
@[simp] theorem State.answerHost_fh : (s.answerHost r).fh = s.fh := rfl
@[simp] theorem State.answerHost_payload : (s.answerHost r).payload = s.payload := rfl
@[simp] theorem State.answerHost_enc : (s.answerHost r).enc = s.enc := rfl
@[simp] theorem State.answerHost_sqId : (s.answerHost r).sqId = s.sqId := rfl
@[simp] theorem State.answerHost_res : (s.answerHost r).res = s.res := rfl
@[simp] theorem State.answerHost_cmdRejected : (s.answerHost r).cmdRejected = s.cmdRejected := rfl
@[simp] theorem State.answerHost_source : (s.answerHost r).source = s.source := rfl
@[simp] theorem State.answerHost_inputs : (s.answerHost r).inputs = s.inputs := rfl
@[simp] theorem State.answerHost_hostReads : (s.answerHost r).hostReads = r :: s.hostReads := rfl
@[simp] theorem State.answerHost_resetEpoch : (s.answerHost r).resetEpoch = s.resetEpoch := rfl

/-! ### `ends` -/

@[simp] theorem State.ends_params : (s.ends q).params = s.params := rfl
@[simp] theorem State.ends_phase : (s.ends q).phase = .done := rfl
@[simp] theorem State.ends_curCmd : (s.ends q).curCmd = s.curCmd := rfl
@[simp] theorem State.ends_hdrBuf : (s.ends q).hdrBuf = s.hdrBuf := rfl
@[simp] theorem State.ends_hcnt : (s.ends q).hcnt = s.hcnt := rfl
@[simp] theorem State.ends_pcnt : (s.ends q).pcnt = s.pcnt := rfl
@[simp] theorem State.ends_fh : (s.ends q).fh = s.fh := rfl
@[simp] theorem State.ends_payload : (s.ends q).payload = s.payload := rfl
@[simp] theorem State.ends_enc : (s.ends q).enc = s.enc := rfl
@[simp] theorem State.ends_sqId : (s.ends q).sqId = s.sqId := rfl
@[simp] theorem State.ends_res : (s.ends q).res = q := rfl
@[simp] theorem State.ends_cmdRejected : (s.ends q).cmdRejected = s.cmdRejected := rfl
@[simp] theorem State.ends_source : (s.ends q).source = s.source := rfl
@[simp] theorem State.ends_inputs : (s.ends q).inputs = s.inputs := rfl
@[simp] theorem State.ends_hostReads : (s.ends q).hostReads = s.hostReads := rfl
@[simp] theorem State.ends_resetEpoch : (s.ends q).resetEpoch = s.resetEpoch := rfl

/-! ### `popped` -/

@[simp] theorem State.popped_params : (s.popped).params = s.params := rfl
@[simp] theorem State.popped_phase : (s.popped).phase = s.phase := rfl
@[simp] theorem State.popped_curCmd : (s.popped).curCmd = s.curCmd := rfl
@[simp] theorem State.popped_hdrBuf : (s.popped).hdrBuf = s.hdrBuf := rfl
@[simp] theorem State.popped_hcnt : (s.popped).hcnt = s.hcnt := rfl
@[simp] theorem State.popped_pcnt : (s.popped).pcnt = s.pcnt := rfl
@[simp] theorem State.popped_fh : (s.popped).fh = s.fh := rfl
@[simp] theorem State.popped_payload : (s.popped).payload = s.payload := rfl
@[simp] theorem State.popped_enc : (s.popped).enc = s.enc := rfl
@[simp] theorem State.popped_sqId : (s.popped).sqId = s.sqId := rfl
@[simp] theorem State.popped_res : (s.popped).res = s.res := rfl
@[simp] theorem State.popped_cmdRejected : (s.popped).cmdRejected = s.cmdRejected := rfl
@[simp] theorem State.popped_source : (s.popped).source = s.source := rfl
@[simp] theorem State.popped_inputs : (s.popped).inputs = s.inputs.tail := rfl
@[simp] theorem State.popped_hostReads : (s.popped).hostReads = s.hostReads := rfl
@[simp] theorem State.popped_resetEpoch : (s.popped).resetEpoch = s.resetEpoch := rfl

/-! ### `resetPulse` -/

@[simp] theorem State.resetPulse_params : (s.resetPulse).params = s.params := rfl
@[simp] theorem State.resetPulse_phase : (s.resetPulse).phase = .idle := rfl
@[simp] theorem State.resetPulse_curCmd : (s.resetPulse).curCmd = 0 := rfl
@[simp] theorem State.resetPulse_hdrBuf : (s.resetPulse).hdrBuf = Bytes9.zero := rfl
@[simp] theorem State.resetPulse_hcnt : (s.resetPulse).hcnt = 0 := rfl
@[simp] theorem State.resetPulse_pcnt : (s.resetPulse).pcnt = 0 := rfl
@[simp] theorem State.resetPulse_fh : (s.resetPulse).fh = ⟨0, 0, 0, 0⟩ := rfl
@[simp] theorem State.resetPulse_payload : (s.resetPulse).payload = [] := rfl
@[simp] theorem State.resetPulse_enc : (s.resetPulse).enc = Bytes9.zero := rfl
@[simp] theorem State.resetPulse_sqId : (s.resetPulse).sqId = 0 := rfl
@[simp] theorem State.resetPulse_res : (s.resetPulse).res = {} := rfl
@[simp] theorem State.resetPulse_cmdRejected : (s.resetPulse).cmdRejected = false := rfl
@[simp] theorem State.resetPulse_source : (s.resetPulse).source = s.source := rfl
@[simp] theorem State.resetPulse_inputs : (s.resetPulse).inputs = s.inputs := rfl
@[simp] theorem State.resetPulse_hostReads : (s.resetPulse).hostReads = s.hostReads := rfl
@[simp] theorem State.resetPulse_resetEpoch : (s.resetPulse).resetEpoch = s.resetEpoch + 1 := rfl

/-! ### `withFlags` -/

@[simp] theorem State.withFlags_params : (s.withFlags v).params = s.params := rfl
@[simp] theorem State.withFlags_phase : (s.withFlags v).phase = s.phase := rfl
@[simp] theorem State.withFlags_curCmd : (s.withFlags v).curCmd = s.curCmd := rfl
@[simp] theorem State.withFlags_hdrBuf : (s.withFlags v).hdrBuf = s.hdrBuf := rfl
@[simp] theorem State.withFlags_hcnt : (s.withFlags v).hcnt = s.hcnt := rfl
@[simp] theorem State.withFlags_pcnt : (s.withFlags v).pcnt = s.pcnt := rfl
@[simp] theorem State.withFlags_fh : (s.withFlags v).fh = { s.fh with flags := v } := rfl
@[simp] theorem State.withFlags_payload : (s.withFlags v).payload = s.payload := rfl
@[simp] theorem State.withFlags_enc : (s.withFlags v).enc = s.enc := rfl
@[simp] theorem State.withFlags_sqId : (s.withFlags v).sqId = s.sqId := rfl
@[simp] theorem State.withFlags_res : (s.withFlags v).res = s.res := rfl
@[simp] theorem State.withFlags_cmdRejected : (s.withFlags v).cmdRejected = s.cmdRejected := rfl
@[simp] theorem State.withFlags_source : (s.withFlags v).source = s.source := rfl
@[simp] theorem State.withFlags_inputs : (s.withFlags v).inputs = s.inputs := rfl
@[simp] theorem State.withFlags_hostReads : (s.withFlags v).hostReads = s.hostReads := rfl
@[simp] theorem State.withFlags_resetEpoch : (s.withFlags v).resetEpoch = s.resetEpoch := rfl

/-! ### Reads of PAYLOAD under updates that leave it alone -/

/-- A PAYLOAD read depends on the written bytes and the reset count only. -/
theorem State.payloadByte_congr {s t : State} (hm : t.payload = s.payload) (he : t.resetEpoch = s.resetEpoch) (a : Nat) :
    t.payloadByte a = s.payloadByte a := by
  simp only [State.payloadByte, hm, he]

@[simp] theorem State.finish_payloadByte : (s.finish o).payloadByte a = s.payloadByte a := rfl
@[simp] theorem State.accept_payloadByte : (s.accept op).payloadByte a = s.payloadByte a := rfl
@[simp] theorem State.reject_payloadByte : s.reject.payloadByte a = s.payloadByte a := rfl
@[simp] theorem State.answerHost_payloadByte : (s.answerHost r).payloadByte a = s.payloadByte a := rfl
@[simp] theorem State.ends_payloadByte : (s.ends q).payloadByte a = s.payloadByte a := rfl
@[simp] theorem State.popped_payloadByte : s.popped.payloadByte a = s.payloadByte a := rfl
@[simp] theorem State.withFlags_payloadByte : (s.withFlags v).payloadByte a = s.payloadByte a := rfl

end Sys2Proof.Machine
end

