-- ==== Sys2Proof/Laws/Memory.lean ====
section
/-! SUPPORT. The laws of the payload memory: read after write, and that a write keeps the canonical form. -/

namespace Sys2Proof.Machine

theorem Memory.lookup_write_same (m : Memory) (a : Nat) (v : Byte) : Memory.lookup (Memory.write m a v) a = some v := by
  induction m with
  | nil => simp [Memory.write, Memory.lookup]
  | cons c m ih =>
    simp only [Memory.write]
    split
    · simp [Memory.lookup]
    · split
      · simp [Memory.lookup]
      · next h => rw [Memory.lookup, if_neg (fun e => h e.symm), ih]

theorem Memory.lookup_write_other (m : Memory) {a b : Nat} (v : Byte) (h : b ≠ a) :
    Memory.lookup (Memory.write m a v) b = Memory.lookup m b := by
  induction m with
  | nil => simp [Memory.write, Memory.lookup, Ne.symm h]
  | cons c m ih =>
    simp only [Memory.write]
    split
    · rw [Memory.lookup, if_neg (Ne.symm h)]
    · split
      · next e => subst e; simp [Memory.lookup, Ne.symm h]
      · simp [Memory.lookup, ih]

/-- Every address a write leaves listed was listed or is the one written. -/
theorem Memory.mem_write {m : Memory} {a : Nat} {v : Byte} {c : Host.Cell} (h : c ∈ Memory.write m a v) :
    c = (a, v) ∨ c ∈ m := by
  induction m with
  | nil => simpa [Memory.write] using h
  | cons d m ih =>
    simp only [Memory.write] at h
    split at h
    · simpa using h
    · split at h
      · rcases List.mem_cons.mp h with h | h
        · exact .inl h
        · exact .inr (List.mem_cons_of_mem _ h)
      · rcases List.mem_cons.mp h with h | h
        · exact .inr (h ▸ List.mem_cons_self)
        · exact (ih h).imp_right (List.mem_cons_of_mem _)

/-- A write keeps the canonical form. -/
theorem Memory.write_wf {m : Memory} (hm : Memory.wf m) (a : Nat) (v : Byte) : Memory.wf (Memory.write m a v) := by
  induction m with
  | nil => simp [Memory.write, Memory.wf]
  | cons d m ih =>
    have ⟨hd, hm'⟩ := List.pairwise_cons.mp hm
    simp only [Memory.write]
    split
    · next h =>
      refine List.pairwise_cons.mpr ⟨fun c hc => ?_, hm⟩
      rcases List.mem_cons.mp hc with rfl | hc
      · exact h
      · exact Nat.lt_trans h (hd c hc)
    · next h1 =>
      split
      · next h2 => exact List.pairwise_cons.mpr ⟨fun c hc => h2 ▸ hd c hc, hm'⟩
      · next h2 =>
        refine List.pairwise_cons.mpr ⟨fun c hc => ?_, ih hm'⟩
        rcases Memory.mem_write hc with rfl | hc
        · exact Nat.lt_of_le_of_ne (Nat.le_of_not_lt h1) (Ne.symm h2)
        · exact hd c hc

/-- A write keeps every listed address below a bound. -/
theorem Memory.write_below {m : Memory} {n a : Nat} (hm : ∀ c ∈ m, c.1 < n) (ha : a < n) (v : Byte) :
    ∀ c ∈ Memory.write m a v, c.1 < n := fun _ hc =>
  (Memory.mem_write hc).elim (fun e => e ▸ ha) (hm _)

/-- Reset memory is in canonical form. -/
theorem State.reset_payload_wf : Memory.wf State.reset.payload := List.Pairwise.nil

@[simp] theorem State.writePayload_same (s : State) (a : Nat) (v : Byte) : (s.writePayload a v).payloadByte a = v := by
  simp [State.payloadByte, Memory.lookup_write_same]

theorem State.writePayload_other (s : State) {a b : Nat} (v : Byte) (h : b ≠ a) :
    (s.writePayload a v).payloadByte b = s.payloadByte b := by
  simp [State.payloadByte, Memory.lookup_write_other _ _ h]

end Sys2Proof.Machine
end

