-- ==== Sys2Proof/Laws/Ops.lean ====
section
/-! SUPPORT. What each shared operation can do, said once: the primitive readers, commands, the byte port, and the step. -/

namespace Sys2Proof.Machine

/-! ### Primitive readers -/

theorem readByte_short {rd : Nat → Byte} {c : Cursor} (h : c.remaining < 1) :
    readByte rd c = .error (.transport .fieldShort c.remaining 1) := if_pos h

theorem readByte_ok {rd : Nat → Byte} {c : Cursor} (h : ¬ c.remaining < 1) :
    readByte rd c = .ok (rd c.pos, ⟨c.pos + 1, c.stop⟩) := if_neg h

theorem readU32_short {rd : Nat → Byte} {c : Cursor} (h : c.remaining < 4) :
    readU32 rd c = .error (.transport .fieldShort c.remaining 4) := if_pos h

theorem readU32_ok {rd : Nat → Byte} {c : Cursor} (h : ¬ c.remaining < 4) :
    readU32 rd c = .ok (readU32at rd c.pos, ⟨c.pos + 4, c.stop⟩) := if_neg h

theorem padDecode_unpadded {p : Params} {rd : Nat → Byte} {flags : Byte} {c : Cursor}
    (h : hasFlag flags p.flags.padded = false) : padDecode p rd flags c = .ok ⟨false, 0, c⟩ := by
  simp [padDecode, h]

theorem padDecode_short {p : Params} {rd : Nat → Byte} {flags : Byte} {c : Cursor}
    (h : hasFlag flags p.flags.padded = true) (hc : c.remaining < 1) :
    padDecode p rd flags c = .error (.transport .fieldShort c.remaining 1) := by
  simp only [padDecode, h, if_true, readByte_short hc]

theorem padDecode_padded {p : Params} {rd : Nat → Byte} {flags : Byte} {c : Cursor}
    (h : hasFlag flags p.flags.padded = true) (hc : ¬ c.remaining < 1) :
    padDecode p rd flags c = .ok ⟨true, rd c.pos, ⟨c.pos + 1, c.stop⟩⟩ := by
  simp only [padDecode, h, if_true, readByte_ok hc]

theorem prioDecode_short {rd : Nat → Byte} {c : Cursor} (h : c.remaining < 4) :
    prioDecode rd c = .error (.transport .fieldShort c.remaining 4) := by
  simp only [prioDecode, readU32_short h]

theorem prioDecode_noWeight {rd : Nat → Byte} {c : Cursor} (h : c.remaining = 4) :
    prioDecode rd c = .error (.transport .fieldShort 0 1) := by
  have h0 : (⟨c.pos + 4, c.stop⟩ : Cursor).remaining = 0 := by simp only [Cursor.remaining] at *; omega
  simp only [prioDecode, readU32_ok (by omega : ¬ c.remaining < 4), readByte_short (by omega : (⟨c.pos + 4, c.stop⟩ : Cursor).remaining < 1), h0]

theorem prioDecode_ok {rd : Nat → Byte} {c : Cursor} (h : 5 ≤ c.remaining) :
    prioDecode rd c =
      .ok ⟨(readU32at rd c.pos).getLsbD 31, (readU32at rd c.pos).setWidth 31, rd (c.pos + 4), ⟨c.pos + 5, c.stop⟩⟩ := by
  have h1 : ¬ (⟨c.pos + 4, c.stop⟩ : Cursor).remaining < 1 := by simp only [Cursor.remaining] at *; omega
  simp only [prioDecode, readU32_ok (by omega : ¬ c.remaining < 4), readByte_ok h1]

/-! ### The flag test (R128, R89) -/

theorem isPadded_eq_hasFlag (s : State) : s.isPadded = hasFlag s.fh.flags s.params.flags.padded := rfl

theorem isPrio_eq_hasFlag (s : State) : s.isPrio = hasFlag s.fh.flags s.params.flags.priority := rfl

/-- The flag test sees only the bits of a mask that covers the flag. -/
theorem hasFlag_congr {f g flag mask : Byte} (hm : mask &&& flag = flag) (h : f &&& mask = g &&& mask) :
    hasFlag f flag = hasFlag g flag := by
  rw [hasFlag, hasFlag, ← hm, ← BitVec.and_assoc, ← BitVec.and_assoc, h]

/-! ### Commands -/

theorem State.command_busy {s : State} {op : BitVec 3} {f : State → State} (h : s.phase.busy = true) :
    s.command op f = s.reject := by
  simp [State.command, h]

theorem State.command_free {s : State} {op : BitVec 3} {f : State → State} (h : s.phase.busy = false) :
    s.command op f = f (s.accept op) := by
  simp [State.command, h]

/-- A phase is busy or it is IDLE or DONE (R23). -/
theorem Phase.busy_eq_false {p : Phase} : p.busy = false ↔ p = .idle ∨ p = .done := by cases p <;> simp [Phase.busy]

/-! ### The byte port -/

/-- `in_ready` is 1 exactly when PHASE is HDR or PAY (R22), but for the capacity refusal (R139). -/
theorem inReady_iff (s : State) : s.inReady = true ↔ (s.phase = .hdr ∨ s.phase = .pay) ∧ ¬ s.stuck := by
  rcases h : s.phase <;> simp [State.inReady, State.stuck, h]

theorem portTurn_take {take : Byte → State → State} {short : State → State} {s : State} {b : Byte} {rest : List Byte}
    (h : s.source.bytes = b :: rest) : portTurn take short s = take b { s with source := ⟨rest, s.source.eoi⟩ } := by
  simp [portTurn, h]

theorem portTurn_end {take : Byte → State → State} {short : State → State} {s : State} (h : s.source.bytes = [])
    (he : s.source.eoi = true) : portTurn take short s = short s := by
  simp [portTurn, h, he]

theorem portTurn_wait {take : Byte → State → State} {short : State → State} {s : State} (h : s.source.bytes = [])
    (he : s.source.eoi = false) : portTurn take short s = s := by
  simp [portTurn, h, he]

/-! ### The byte port's two byte steps, and the unit's turn by phase -/

theorem headerByte_take {b : Byte} {s : State} (h : s.hcnt + 1 ≠ 9) :
    headerByte b s = { s with hdrBuf := setByte9 s.hdrBuf s.hcnt.toNat b, hcnt := s.hcnt + 1 } := if_neg h

theorem headerByte_last {b : Byte} {s : State} (h : s.hcnt + 1 = 9) :
    headerByte b s =
      headerComplete { s with hdrBuf := setByte9 s.hdrBuf s.hcnt.toNat b, hcnt := s.hcnt + 1 } := if_pos h

theorem payloadByteIn_more {b : Byte} {s : State} (h : s.pcnt + 1 ≠ s.fh.length) :
    payloadByteIn b s = { s with payload := Memory.write s.payload s.pcnt.toNat b, pcnt := s.pcnt + 1 } := if_neg h

theorem payloadByteIn_last {b : Byte} {s : State} (h : s.pcnt + 1 = s.fh.length) :
    payloadByteIn b s =
      { s with payload := Memory.write s.payload s.pcnt.toNat b, pcnt := s.pcnt + 1, phase := .exec } := if_pos h

theorem unitStep_rest {s : State} (h : s.phase = .idle ∨ s.phase = .done) : unitStep s = .next s := by
  unfold unitStep; rcases h with h | h <;> rw [h]

theorem unitStep_hdr {s : State} (h : s.phase = .hdr) (hc : s.hcnt.toNat < 9) :
    unitStep s = .next (portTurn headerByte headerShort s) := by
  unfold unitStep; rw [h]; exact if_neg (Nat.not_le.mpr hc)

theorem unitStep_stuck {s : State} (h : s.stuck) : unitStep s = .fault .capacityStuck := by
  unfold unitStep; rw [h.1]; exact if_pos h.2

theorem unitStep_pay {s : State} (h : s.phase = .pay) : unitStep s = .next (portTurn payloadByteIn payloadShort s) := by
  unfold unitStep; rw [h]

theorem unitStep_exec {s : State} (h : s.phase = .exec) : unitStep s = execTurn s := by
  unfold unitStep; rw [h]

/-! ### The step -/

theorem step_cons {s : State} {e : Event} {rest : List Event} (h : s.inputs = e :: rest) :
    step s = deliver e s.popped := by
  simp only [step, State.popped, h, List.tail_cons]

/-- The decoder unit's turn is the same whether it comes from the event list or because no event is pending. -/
theorem step_unit {s : State} (h : s.unitMoves = true) : step s = unitStep s.popped := by
  cases hi : s.inputs with
  | nil => simp only [step, State.popped, hi, List.tail_nil]; rw [← hi]
  | cons e rest =>
    simp only [State.unitMoves, hi] at h
    have he : e = .unitTurn := by simpa using h
    subst he
    rw [step_cons hi]
    rfl

/-- A step is one event's delivery, or the unit's turn. -/
theorem step_cases (s : State) :
    (s.unitMoves = true ∧ step s = unitStep s.popped) ∨
      (∃ e rest, s.inputs = e :: rest ∧ e ≠ .unitTurn ∧ step s = deliver e s.popped) := by
  cases h : s.unitMoves with
  | true => exact .inl ⟨rfl, step_unit h⟩
  | false =>
    cases hi : s.inputs with
    | nil => simp [State.unitMoves, hi] at h
    | cons e rest =>
      refine .inr ⟨e, rest, rfl, fun he => ?_, step_cons hi⟩
      subst he
      simp [State.unitMoves, hi] at h

end Sys2Proof.Machine
end

