-- ==== Sys2Proof/Laws/PerInstr.lean ====
section
/-! SUPPORT. Statements made for every instruction, one lemma a constructor: the encoder's word of an instruction belongs to a row
of the opcode table with its mnemonic. -/

namespace Sys2Proof.Laws.TableRow

/-- The encoder's word of a well-formed instruction, at the table's type values, belongs to a row that has its mnemonic. -/
def Statement (i : Instr) : Prop :=
  i.wf = true → (ctrlRows ++ frameTypeRows).any (fun r => r.mnemonic == i.mnemonic && r.holds (encode {} i)) = true

theorem nop : Statement .nop := by unfold Statement; decide
theorem readFrame : Statement .readFrame := by unfold Statement; decide
theorem decodeHeader : Statement .decodeHeader := by unfold Statement; decide
theorem parse : Statement .parse := by unfold Statement; decide
theorem encodeHeader : Statement .encodeHeader := by unfold Statement; decide
theorem reserved5 : Statement .reserved5 := by unfold Statement; decide
theorem reserved6 : Statement .reserved6 := by unfold Statement; decide
theorem reserved7 : Statement .reserved7 := by unfold Statement; decide
theorem parseData : Statement .parseData := by unfold Statement; decide
theorem parseHeaders : Statement .parseHeaders := by unfold Statement; decide
theorem parsePriority : Statement .parsePriority := by unfold Statement; decide
theorem parseRstStream : Statement .parseRstStream := by unfold Statement; decide
theorem parseSettings : Statement .parseSettings := by unfold Statement; decide
theorem parsePushPromise : Statement .parsePushPromise := by unfold Statement; decide
theorem passUnparsedPing : Statement .passUnparsedPing := by unfold Statement; decide
theorem passUnparsedGoaway : Statement .passUnparsedGoaway := by unfold Statement; decide
theorem passUnparsedWindowUpdate : Statement .passUnparsedWindowUpdate := by unfold Statement; decide
theorem passUnparsedContinuation : Statement .passUnparsedContinuation := by unfold Statement; decide

/-- The six rows of PASS_UNKNOWN cover the type bytes 0x0A to 0xFF. -/
theorem passUnknown : ∀ t, Statement (.passUnknown t) := by unfold Statement; decide +kernel

end Sys2Proof.Laws.TableRow
end

