-- ==== Sys2Proof/Laws/Step.lean ====
section
/-! SUPPORT. What a step can do, said once: the EXEC step, the unit's turn, a CTRL write, and any other event. Claims about all
steps take cases by these and never unfold the machine. -/

namespace Sys2Proof.Machine

/-! ### The EXEC step -/

/-- The outcomes a target can raise. -/
def ParserOutcome (s : State) (o : CommandOutcome) : Prop :=
  o = parseData s.params s.fh s.payloadByte ∨ o = parseHeaders s.params s.fh s.payloadByte ∨
    o = parsePriority s.params s.fh s.payloadByte ∨ o = parseRstStream s.params s.fh s.payloadByte ∨
    o = parseSettings s.params s.fh s.payloadByte ∨ o = parsePushPromise s.params s.fh s.payloadByte ∨
    o = passFrame .unparsed s.fh ∨ o = passFrame .unknown s.fh

/-- Every target raises one outcome and does nothing else. -/
theorem exec_target {s : State} {u : Byte} {i : Instr} (hi : i ∈ frameTargets u) :
    ∃ o, exec i s = .next (s.finish o) ∧ ParserOutcome s o := by
  simp only [frameTargets, List.mem_cons, List.not_mem_nil, or_false] at hi
  rcases hi with rfl | rfl | rfl | rfl | rfl | rfl | rfl | rfl | rfl | rfl | rfl <;>
    exact ⟨_, rfl, by simp [ParserOutcome, passUnparsed, passUnknown]⟩

/-- A type byte decodes to a target. -/
theorem decode_frameType_mem (tv : TypeValues) (t : Byte) : decode tv (.frameType t) ∈ frameTargets t := by
  simp only [decode, decodeFrameType]
  repeat' split
  all_goals simp [frameTargets]

theorem execTurn_next (s : State) : ∃ o, execTurn s = .next (s.finish o) ∧ ParserOutcome s o :=
  exec_target (decode_frameType_mem s.params.types s.fh.typ)

/-! ### The unit's turn -/

theorem portTurn_cases (take : Byte → State → State) (short : State → State) (s : State) :
    portTurn take short s = s ∨
      (∃ b rest, s.source.bytes = b :: rest ∧
        portTurn take short s = take b { s with source := ⟨rest, s.source.eoi⟩ }) ∨
      (s.source.bytes = [] ∧ s.source.eoi = true ∧ portTurn take short s = short s) := by
  cases hb : s.source.bytes with
  | cons b rest => exact .inr (.inl ⟨b, rest, rfl, portTurn_take hb⟩)
  | nil =>
    cases he : s.source.eoi with
    | true => exact .inr (.inr ⟨rfl, rfl, portTurn_end hb he⟩)
    | false => exact .inl (portTurn_wait hb he)

/-- Everything the unit's turn can do when it answers a next state. -/
theorem unitStep_cases {s t : State} (h : unitStep s = .next t) :
    t = s ∨
      (s.phase = .hdr ∧ s.hcnt.toNat < 9 ∧
        ((∃ b rest, s.source.bytes = b :: rest ∧ t = headerByte b { s with source := ⟨rest, s.source.eoi⟩ }) ∨
          (s.source.bytes = [] ∧ s.source.eoi = true ∧ t = headerShort s))) ∨
      (s.phase = .pay ∧
        ((∃ b rest, s.source.bytes = b :: rest ∧ t = payloadByteIn b { s with source := ⟨rest, s.source.eoi⟩ }) ∨
          (s.source.bytes = [] ∧ s.source.eoi = true ∧ t = payloadShort s))) ∨
      (s.phase = .exec ∧ ∃ o, t = s.finish o ∧ ParserOutcome s o) := by
  have phases : (s.phase = .idle ∨ s.phase = .done) ∨ s.phase = .hdr ∨ s.phase = .pay ∨ s.phase = .exec := by
    cases s.phase <;> simp
  rcases phases with hp | hp | hp | hp
  · rw [unitStep_rest hp, Host.Outcome.next.injEq] at h
    exact .inl h.symm
  · by_cases hc : s.hcnt.toNat < 9
    · rw [unitStep_hdr hp hc, Host.Outcome.next.injEq] at h
      rcases portTurn_cases headerByte headerShort s with e | ⟨b, rest, hb, e⟩ | ⟨hb, he, e⟩
      · exact .inl (h ▸ e)
      · exact .inr (.inl ⟨hp, hc, .inl ⟨b, rest, hb, h ▸ e⟩⟩)
      · exact .inr (.inl ⟨hp, hc, .inr ⟨hb, he, h ▸ e⟩⟩)
    · rw [unitStep_stuck ⟨hp, Nat.not_lt.mp hc⟩] at h
      cases h
  · rw [unitStep_pay hp, Host.Outcome.next.injEq] at h
    rcases portTurn_cases payloadByteIn payloadShort s with e | ⟨b, rest, hb, e⟩ | ⟨hb, he, e⟩
    · exact .inl (h ▸ e)
    · exact .inr (.inr (.inl ⟨hp, .inl ⟨b, rest, hb, h ▸ e⟩⟩))
    · exact .inr (.inr (.inl ⟨hp, .inr ⟨hb, he, h ▸ e⟩⟩))
  · obtain ⟨o, ho, hk⟩ := execTurn_next s
    rw [unitStep_exec hp, ho, Host.Outcome.next.injEq] at h
    exact .inr (.inr (.inr ⟨hp, o, h.symm, hk⟩))

/-! ### A CTRL write -/

/-- The command of each opcode. -/
def commandOf (op : Nat) : Instr :=
  match op with
  | 0 => .nop
  | 1 => .readFrame
  | 2 => .decodeHeader
  | 3 => .parse
  | 4 => .encodeHeader
  | 5 => .reserved5
  | 6 => .reserved6
  | _ => .reserved7

theorem decode_ctrl (tv : TypeValues) (v : Word) : decode tv (.ctrl v) = commandOf (v.toNat % 8) := by
  have h : (v.extractLsb' 0 3).toNat = v.toNat % 8 := by simp
  simp only [decode, decodeCtrl, h]
  rfl

theorem startParse_cases (s : State) : startParse s = capacityRefusal s ∨ startParse s = { s with phase := .exec } := by
  unfold startParse
  split
  · exact .inl rfl
  · exact .inr rfl

/-- What a CTRL write of opcode `op` can leave. -/
def CtrlResult (s : State) (op : Nat) (t : State) : Prop :=
  (op = 0 ∧ t = s) ∨ t = s.reject ∨
    (s.phase.busy = false ∧
      ((op = 1 ∧ t = startReadFrame (s.accept 1)) ∨ (op = 2 ∧ t = startDecodeHeader (s.accept 2)) ∨
        (op = 3 ∧ t = startParse (s.accept 3)) ∨ (op = 4 ∧ t = startEncodeHeader (s.accept 4))))

theorem exec_commandOf {s : State} {op : Nat} (hop : op < 8) : ∃ t, exec (commandOf op) s = .next t ∧ CtrlResult s op t := by
  have command : ∀ (k : BitVec 3) (start : State → State),
      (s.command k start = s.reject) ∨ (s.phase.busy = false ∧ s.command k start = start (s.accept k)) := fun k start => by
    cases hb : s.phase.busy <;> simp [State.command, hb]
  match op, hop with
  | 0, _ => exact ⟨_, rfl, .inl ⟨rfl, rfl⟩⟩
  | 1, _ => exact ⟨_, rfl, .inr ((command 1 startReadFrame).imp_right fun h => ⟨h.1, .inl ⟨rfl, h.2⟩⟩)⟩
  | 2, _ => exact ⟨_, rfl, .inr ((command 2 startDecodeHeader).imp_right fun h => ⟨h.1, .inr (.inl ⟨rfl, h.2⟩)⟩)⟩
  | 3, _ => exact ⟨_, rfl, .inr ((command 3 startParse).imp_right fun h => ⟨h.1, .inr (.inr (.inl ⟨rfl, h.2⟩))⟩)⟩
  | 4, _ => exact ⟨_, rfl, .inr ((command 4 startEncodeHeader).imp_right fun h => ⟨h.1, .inr (.inr (.inr ⟨rfl, h.2⟩))⟩)⟩
  | 5, _ => exact ⟨_, rfl, .inr (.inl rfl)⟩
  | 6, _ => exact ⟨_, rfl, .inr (.inl rfl)⟩
  | 7, _ => exact ⟨_, rfl, .inr (.inl rfl)⟩

theorem exec_ctrl (tv : TypeValues) (v : Word) (s : State) :
    ∃ t, exec (decode tv (.ctrl v)) s = .next t ∧ CtrlResult s (v.toNat % 8) t := by
  rw [decode_ctrl]
  exact exec_commandOf (Nat.mod_lt _ (by decide))

/-! ### The other events -/

/-- CTRL is at offset 0 and nowhere else. -/
theorem regAt_ctrl {off : Nat} (h : regAt off = some .ctrl) : off = 0 := by
  by_contra hne
  simp only [regAt, regOffsets, List.lookup] at h
  repeat' split at h
  all_goals simp_all

/-- Everything an event but the unit's turn can do when it answers a next state. -/
theorem deliver_cases {s t : State} {e : Event} (h : deliver e s = .next t) (hu : e ≠ .unitTurn) :
    t = s ∨ (∃ r, t = s.answerHost r) ∨
      (∃ a v, e = .payloadWrite a v ∧ a < s.params.payloadCap.toNat ∧ s.phase.busy = false ∧ t = s.writePayload a v) ∨
      (∃ x, t = { s with source := x }) ∨ (e = .reset ∧ t = s.resetPulse) ∨
      (∃ off v r, e = .regWrite off v ∧ regAt off = some r ∧ r ≠ .ctrl ∧ t = s.regWrite r v) ∨
      (∃ v, e = .regWrite 0 v ∧ CtrlResult s (v.toNat % 8) t) := by
  cases e with
  | unitTurn => exact absurd rfl hu
  | reset => exact .inr (.inr (.inr (.inr (.inl ⟨rfl, (Host.Outcome.next.inj h).symm⟩))))
  | offer b => exact .inr (.inr (.inr (.inl ⟨_, (Host.Outcome.next.inj h).symm⟩)))
  | setEoi v => exact .inr (.inr (.inr (.inl ⟨_, (Host.Outcome.next.inj h).symm⟩)))
  | regRead off =>
    simp only [deliver, hostRegRead] at h
    split at h
    · cases h
    · exact .inr (.inl ⟨_, (Host.Outcome.next.inj h).symm⟩)
  | payloadRead a =>
    simp only [deliver, hostPayloadRead] at h
    split at h
    · cases h
    · exact .inr (.inl ⟨_, (Host.Outcome.next.inj h).symm⟩)
  | payloadWrite a v =>
    simp only [deliver, hostPayloadWrite] at h
    split at h
    · cases h
    · next ha =>
      split at h
      · exact .inl (Host.Outcome.next.inj h).symm
      · next hb =>
        exact .inr (.inr (.inl ⟨a, v, rfl, Nat.not_le.mp ha, Bool.not_eq_true _ ▸ hb, (Host.Outcome.next.inj h).symm⟩))
  | regWrite off v =>
    simp only [deliver, hostRegWrite] at h
    split at h
    · cases h
    · split at h
      · next hr =>
        obtain ⟨t', ht, hc⟩ := exec_ctrl s.params.types v s
        rw [ht, Host.Outcome.next.injEq] at h
        subst h
        have h0 := regAt_ctrl hr
        subst h0
        exact .inr (.inr (.inr (.inr (.inr (.inr ⟨v, rfl, hc⟩)))))
      · next r hn hr =>
        refine .inr (.inr (.inr (.inr (.inr (.inl ⟨off, v, r, rfl, hr, ?_, (Host.Outcome.next.inj h).symm⟩)))))
        rintro rfl
        exact hn rfl
      · exact .inl (Host.Outcome.next.inj h).symm

end Sys2Proof.Machine
end

