-- ==== Sys2Proof/Tests/Slice0.lean ====
section
/-! SUPPORT. Tests: what WellFormed refuses, words written out from the spec's encodings, one-step results taken from the spec's own
examples and vectors (`95_test_vectors.md`; the comment on each names it), and for every statement with hypotheses a concrete state
and operands that meet them. -/

namespace Sys2Proof.Tests

open Sys2Proof Sys2Proof.Machine

/-! ### Helpers -/

/-- The next state of an outcome, if it is one. -/
def nextOf : Host.Outcome State Fault Refusal → Option State
  | .next s => some s
  | .fault _ => none
  | .refused _ => none

/-- The result fields after an outcome. -/
def resultOf (o : Host.Outcome State Fault Refusal) : Option ResultFields := (nextOf o).map (·.res)

/-- PAYLOAD holding the given bytes from address 0. -/
def bytesFrom : Nat → List Nat → Memory
  | _, [] => []
  | a, v :: vs => (a, BitVec.ofNat 8 v) :: bytesFrom (a + 1) vs

/-- An EXEC step is due for a frame with this header and these payload bytes. -/
def frameState (typ flags sid : Nat) (payload : List Nat) : State :=
  { State.reset with
    phase := .exec, curCmd := 3, payload := bytesFrom 0 payload,
    fh := ⟨BitVec.ofNat 24 payload.length, BitVec.ofNat 8 typ, BitVec.ofNat 8 flags, BitVec.ofNat 31 sid⟩ }

/-- DONE with a frame outcome. -/
def doneState : State := { State.reset with phase := .done, curCmd := 1, res := { resKind := .frame, frameKind := .data } }

/-- HDR with `n` header bytes in and these bytes offered. -/
def hdrState (cmd n : Nat) (offered : List Nat) : State :=
  { State.reset with
    phase := .hdr, curCmd := BitVec.ofNat 3 cmd, hcnt := BitVec.ofNat 4 n, hdrBuf := ⟨0, 0, 2, 0, 1, 0x80, 0, 0, 1⟩,
    source := ⟨offered.map (BitVec.ofNat 8), false⟩ }

/-- PAY with two of `n` payload bytes in and these bytes offered. -/
def payState (n : Nat) (offered : List Nat) : State :=
  { State.reset with
    phase := .pay, curCmd := 1, hcnt := 9, pcnt := 2, fh := ⟨BitVec.ofNat 24 n, 0, 1, 1⟩, payload := bytesFrom 0 [1, 2],
    source := ⟨offered.map (BitVec.ofNat 8), false⟩ }

/-- The capacity refusal of vector V18. -/
def stuckState : State :=
  { State.reset with
    params := { payloadCap := 4 }, phase := .hdr, curCmd := 1, hcnt := 9, hdrBuf := ⟨0, 0, 5, 0, 0, 0, 0, 0, 1⟩,
    fh := ⟨5, 0, 0, 1⟩, source := ⟨[0x68], false⟩ }

/-- A state with one event pending. -/
def pend (e : Event) (s : State) : State := { s with inputs := [e] }

/-! ### WellFormed: an ill-formed term for each check -/

theorem test_wf_refuses_named_type : Instr.wf (.passUnknown 0x00) = false := by decide
theorem test_wf_refuses_continuation : Instr.wf (.passUnknown 0x09) = false := by decide
theorem test_wf_accepts_unknown_type : Instr.wf (.passUnknown 0x0A) = true := by decide
theorem test_wf_refuses_equal_type_values : ¬ TypeValues.wf { headers := 0x00 } := by decide

/-! ### Decoding: words written out from `30_encoding.md` R96 (CTRL) and R84 (FRAME_TYPE) -/

theorem test_decode_nop : decode {} (.ctrl 0b00000000000000000000000000000000#32) = .nop := by decide
theorem test_decode_readFrame : decode {} (.ctrl 0b00000000000000000000000000000001#32) = .readFrame := by decide
theorem test_decode_decodeHeader : decode {} (.ctrl 0b00000000000000000000000000000010#32) = .decodeHeader := by decide
theorem test_decode_parse : decode {} (.ctrl 0b00000000000000000000000000000011#32) = .parse := by decide
theorem test_decode_encodeHeader : decode {} (.ctrl 0b11111111111111111111111111111100#32) = .encodeHeader := by decide
theorem test_decode_reserved5 : decode {} (.ctrl 0b00000000000000000000000000000101#32) = .reserved5 := by decide
theorem test_decode_reserved6 : decode {} (.ctrl 0b00000000000000000000000000001110#32) = .reserved6 := by decide
theorem test_decode_reserved7 : decode {} (.ctrl 0b10000000000000000000000000000111#32) = .reserved7 := by decide
theorem test_decode_parseData : decode {} (.frameType 0b00000000#8) = .parseData := by decide
theorem test_decode_parseHeaders : decode {} (.frameType 0b00000001#8) = .parseHeaders := by decide
theorem test_decode_parsePriority : decode {} (.frameType 0b00000010#8) = .parsePriority := by decide
theorem test_decode_parseRstStream : decode {} (.frameType 0b00000011#8) = .parseRstStream := by decide
theorem test_decode_parseSettings : decode {} (.frameType 0b00000100#8) = .parseSettings := by decide
theorem test_decode_parsePushPromise : decode {} (.frameType 0b00000101#8) = .parsePushPromise := by decide
theorem test_decode_ping : decode {} (.frameType 0b00000110#8) = .passUnparsedPing := by decide
theorem test_decode_goaway : decode {} (.frameType 0b00000111#8) = .passUnparsedGoaway := by decide
theorem test_decode_windowUpdate : decode {} (.frameType 0b00001000#8) = .passUnparsedWindowUpdate := by decide
theorem test_decode_continuation : decode {} (.frameType 0b00001001#8) = .passUnparsedContinuation := by decide
theorem test_decode_unknown_low : decode {} (.frameType 0b00001010#8) = .passUnknown 0x0A := by decide
theorem test_decode_unknown_high : decode {} (.frameType 0b11111111#8) = .passUnknown 0xFF := by decide
theorem test_table_word_ctrl : decodeTableWord 32 4 = some .encodeHeader := by decide
theorem test_table_word_type : decodeTableWord 8 4 = some .parseSettings := by decide
theorem test_table_word_no_bits : decodeTableWord 0 0 = none := by decide
theorem test_table_word_too_wide : decodeTableWord 8 0x100 = none := by decide

/-! ### Commands -/

/-- V48. -/
theorem test_nop : nextOf (exec .nop doneState) = some doneState := by decide
/-- V47, the acceptance: PHASE HDR, results cleared. -/
theorem test_readFrame :
    (nextOf (exec .readFrame doneState)).map (fun t => (t.phase, t.curCmd, t.hcnt, t.pcnt, t.res, t.cmdRejected)) =
      some (.hdr, 1, 0, 0, {}, false) := by decide
/-- V47: a command in HDR is rejected. -/
theorem test_parse_busy :
    (nextOf (exec .parse (hdrState 1 3 []))).map (fun t => t.regRead 0x04) = some 0x00020001 := by decide
/-- V16 (its acceptance). -/
theorem test_decodeHeader :
    (nextOf (exec .decodeHeader State.reset)).map (fun t => (t.phase, t.curCmd)) = some (.hdr, 2) := by decide
/-- V50's acceptance: the EXEC step is due. -/
theorem test_parse : (nextOf (exec .parse State.reset)).map (fun t => (t.phase, t.curCmd)) = some (.exec, 3) := by decide
/-- V11. -/
theorem test_encodeHeader :
    (nextOf (exec .encodeHeader { State.reset with fh := ⟨0x123456, 0x04, 0x01, 0x7fffffff⟩ })).map
      (fun t => [t.regRead 0x04, t.regRead 0x3C, t.regRead 0x40, t.regRead 0x44]) =
      some [0x00000034, 0x12345604, 0x017FFFFF, 0xFF000000] := by decide
/-- V46. -/
theorem test_reserved5 : (nextOf (exec .reserved5 doneState)).map (fun t => t.regRead 0x04) = some 0x0002004C := by decide
/-- R97. -/
theorem test_reserved6 : (nextOf (exec .reserved6 State.reset)).map (fun t => t.regRead 0x04) = some 0x00020000 := by decide
/-- R97. -/
theorem test_reserved7 : nextOf (exec .reserved7 (hdrState 1 3 [])) = some { hdrState 1 3 [] with cmdRejected := true } := by
  decide

/-! ### Parsers: the registers after the EXEC step, from the vectors -/

/-- STATUS, ERR_CODE, ERR_SID, ERR_OBS, ERR_EXP, CONTENT_OFF, CONTENT_LEN, PRIO, FFLAGS, RST_CODE, SET_INFO. -/
def regs (o : Host.Outcome State Fault Refusal) : Option (List Nat) :=
  (nextOf o).map fun t =>
    [0x04, 0x14, 0x18, 0x1C, 0x20, 0x24, 0x28, 0x2C, 0x30, 0x34, 0x38].map fun off => (t.regRead off).toNat

/-- V3. -/
theorem test_parseData_padded :
    regs (exec .parseData (frameState 0 8 1 [3, 0x61, 0x62, 0x63, 0, 0, 0])) =
      some [0x4C, 0, 0, 0, 0, 1, 3, 0, 0x00010003, 0, 0] := by decide
/-- V8b. -/
theorem test_parseData_padTooLong :
    regs (exec .parseData (frameState 0 8 1 [4, 0, 0, 0])) = some [0x5414, 1, 0, 0, 0, 0, 0, 0, 0, 0, 0] := by decide
/-- V23. -/
theorem test_parseHeaders_padded_priority :
    regs (exec .parseHeaders (frameState 1 0x2c 3 [2, 0x80, 0, 0, 1, 0x10, 0xaa, 0xbb, 0, 0])) =
      some [0x8C, 0, 0, 0, 0, 6, 2, 0x80000001, 0x00071002, 0, 0] := by decide
/-- V9: a stream error. -/
theorem test_parseHeaders_empty :
    regs (exec .parseHeaders (frameState 1 0x0c 3 [5, 0xaa, 0xbb])) = some [0xA01C, 1, 3, 0, 0, 0, 0, 0, 0, 0, 0] := by decide
/-- V28. -/
theorem test_parsePriority :
    regs (exec .parsePriority (frameState 2 0 3 [0x80, 0, 0, 1, 0x0f])) =
      some [0xCC, 0, 0, 0, 0, 0, 0, 0x80000001, 0x00020F00, 0, 0] := by decide
/-- V29: the stream ID before the size. -/
theorem test_parsePriority_stream_zero :
    regs (exec .parsePriority (frameState 2 0 0 [0, 0, 0, 0, 0, 0])) = some [0x5014, 1, 0, 0, 0, 0, 0, 0, 0, 0, 0] := by decide
/-- V7. -/
theorem test_parseRstStream :
    regs (exec .parseRstStream (frameState 3 0 7 [0, 0, 1, 0])) = some [0x10C, 0, 0, 0, 0, 0, 0, 0, 0, 0x100, 0] := by decide
/-- V33: the size before the stream ID, by default. -/
theorem test_parseRstStream_size_first :
    regs (exec .parseRstStream (frameState 3 0 0 [])) = some [0x15C14, 6, 0, 0, 4, 0, 0, 0, 0, 0, 0] := by decide
/-- V36. -/
theorem test_parseSettings_truncate :
    regs (exec .parseSettings (frameState 4 0 0 [0, 4, 0, 0, 0xff, 0xff, 0, 5])) =
      some [0x14C, 0, 0, 0, 0, 0, 0, 0, 0, 0, 0x02000001] := by decide
/-- V37. -/
theorem test_parseSettings_reject :
    regs (exec .parseSettings
      { frameState 4 0 0 [0, 4, 0, 0, 0xff, 0xff, 0, 5] with params := { settingsPartial := .reject } }) =
      some [0x16414, 6, 0, 8, 6, 0, 0, 0, 0, 0, 0] := by decide
/-- V39. -/
theorem test_parsePushPromise :
    regs (exec .parsePushPromise (frameState 5 0x0c 1 [2, 0x80, 0, 0, 2, 0xaa, 0xbb, 0xcc, 0, 0])) =
      some [0x18C, 0, 0, 0, 0, 5, 3, 2, 0x00050002, 0, 0] := by decide
/-- V41. -/
theorem test_parsePushPromise_padTooLong :
    regs (exec .parsePushPromise (frameState 5 8 1 [1, 0, 0, 0, 2])) = some [0x5414, 1, 0, 0, 0, 0, 0, 0, 0, 0, 0] := by decide
/-- V44. -/
theorem test_passUnparsedPing :
    regs (exec .passUnparsedPing (frameState 6 1 0 [1, 2, 3, 4, 5, 6, 7, 8])) =
      some [0x1CC, 0, 0, 0, 0, 0, 8, 0, 0, 0, 0] := by decide
/-- R226: no minimum length. -/
theorem test_passUnparsedGoaway :
    regs (exec .passUnparsedGoaway (frameState 7 0 0 [])) = some [0x1CC, 0, 0, 0, 0, 0, 0, 0, 0, 0, 0] := by decide
/-- R226: a stream ID of 0 is accepted. -/
theorem test_passUnparsedWindowUpdate :
    regs (exec .passUnparsedWindowUpdate (frameState 8 0 0 [0, 0, 0, 1])) = some [0x1CC, 0, 0, 0, 0, 0, 4, 0, 0, 0, 0] := by decide
/-- R226: END_HEADERS is not looked at. -/
theorem test_passUnparsedContinuation :
    regs (exec .passUnparsedContinuation (frameState 9 4 1 [0xaa])) = some [0x1CC, 0, 0, 0, 0, 0, 1, 0, 0, 0, 0] := by decide
/-- V45. -/
theorem test_passUnknown :
    regs (exec (.passUnknown 0xFF) (frameState 0xFF 0 0 [])) = some [0x20C, 0, 0, 0, 0, 0, 0, 0, 0, 0, 0] := by decide

/-! ### One step of the ports -/

/-- V6: the last entry of an ID wins. -/
theorem test_settings_lookup :
    (nextOf (exec .parseSettings { frameState 4 0 0 [0, 3, 0, 0, 0, 0x64, 0, 3, 0, 0, 0, 0xc8] with sqId := 3 })).map
      (fun t => (t.regRead 0x04, t.regRead 0x4C)) = some (0x0004014C, 0xC8) := by decide
/-- V13: end of input after four header bytes. -/
theorem test_header_short :
    (nextOf (step { hdrState 1 4 [] with source := ⟨[], true⟩ })).map (fun t => [t.regRead 0x04, t.regRead 0x1C, t.regRead 0x20]) =
      some [0xC424, 4, 9] := by decide
/-- V15: end of input after two of five payload bytes. -/
theorem test_payload_short :
    (nextOf (step { payState 5 [] with source := ⟨[], true⟩ })).map (fun t => [t.regRead 0x04, t.regRead 0x1C, t.regRead 0x20]) =
      some [0xC824, 2, 5] := by decide
/-- V17: a byte and end of input together; the byte is taken. -/
theorem test_byte_before_end_of_input :
    (nextOf (step { hdrState 2 8 [1] with source := ⟨[1], true⟩ })).map (fun t => (t.regRead 0x04, t.fh.streamID)) =
      some (0x2C, 1) := by decide
/-- V18: the unit has no further step. -/
theorem test_capacity_refusal : nextOf (step stuckState) = none ∧ stuckState.inReady = false := by decide
/-- V51: reset while a header is collected. -/
theorem test_reset : (nextOf (step (pend .reset (hdrState 1 3 [7])))).map (fun t => (t.phase, t.hcnt, t.source.bytes)) =
    some (.idle, 0, [7]) := by decide
/-- V11: bit 31 of FH_SID is discarded. -/
theorem test_write_fh_sid :
    (nextOf (step (pend (.regWrite 0x10 0xffffffff) State.reset))).map (fun t => t.regRead 0x10) = some 0x7FFFFFFF := by decide
/-- V12. -/
theorem test_has_flag : hasFlag 0x29 0x08 = true ∧ hasFlag 0x29 0x04 = false := by decide
/-- V52, and V7's name. -/
theorem test_error_names :
    errCodeName 0x6 = "FRAME_SIZE_ERROR" ∧ errCodeName 0xd = "HTTP_1_1_REQUIRED" ∧ errCodeName 0xe = "unknown error code 0xe" ∧
    errCodeName 0x100 = "unknown error code 0x100" := by decide

/-! ### Witnesses: states and operands that meet the hypotheses of the statements, clause by clause

Each is named after its statement. An equation that fixes a value by a `let` of the statement is written out here. -/

theorem witness_DecodeFollowsTheOpcodeTable :
    (⟨"PASS_UNKNOWN", .frameType, 0x80, 0x80⟩ : Row) ∈ ctrlRows ++ frameTypeRows ∧
    Row.holds ⟨"PASS_UNKNOWN", .frameType, 0x80, 0x80⟩ (.frameType 0xFF) = true := by decide
theorem witness_DecodeUndoesEncode :
    TypeValues.wf { headers := 0x0A, ping := 0x01 } ∧
    Instr.wfFor { headers := 0x0A, ping := 0x01 } (.passUnknown 0x06) = true := by decide
theorem witness_HeaderRoundTrips : (⟨0, 0, 4, 8, 0, 0x7f, 0xff, 0xff, 0xff⟩ : Bytes9).b5.getLsbD 7 = false := by decide
theorem witness_ReservedBitNeverExposed : ∃ t, step (hdrState 2 8 [1]) = .next t ∧ t.fh.streamID = 1 := ⟨_, rfl, by decide⟩
theorem witness_EncodeHeaderPacksTheRegisters : State.reset.phase.busy = false ∧ doneState.phase.busy = false := by decide
theorem witness_HintAndReservedCommands :
    Instr.reserved6 ∈ [Instr.reserved5, .reserved6, .reserved7] ∧ (0x4#32).toNat % 8 = (0xFFFFFFFC#32).toNat % 8 := by decide

/-! CtrlWriteRule -/

theorem witness_CtrlWriteRule_nop :
    (pend (.regWrite 0 0xFFFFFFF8) doneState).inputs = [.regWrite 0 0xFFFFFFF8] ∧ (0xFFFFFFF8#32).toNat % 8 = 0 := by decide
theorem witness_CtrlWriteRule_reserved :
    (pend (.regWrite 0 5) doneState).inputs = [.regWrite 0 5] ∧ 5 ≤ (5#32).toNat % 8 := by decide
theorem witness_CtrlWriteRule_busy :
    (pend (.regWrite 0 4) (hdrState 1 3 [])).inputs = [.regWrite 0 4] ∧ 1 ≤ (4#32).toNat % 8 ∧ (4#32).toNat % 8 ≤ 4 ∧
    (hdrState 1 3 []).phase.busy = true := by decide
theorem witness_CtrlWriteRule_readFrame :
    (pend (.regWrite 0 1) doneState).inputs = [.regWrite 0 1] ∧ (1#32).toNat % 8 = 1 ∧ doneState.phase.busy = false := by decide
theorem witness_CtrlWriteRule_decodeHeader :
    (pend (.regWrite 0 2) State.reset).inputs = [.regWrite 0 2] ∧ (2#32).toNat % 8 = 2 ∧ State.reset.phase.busy = false := by
  decide
/-- PARSE of a frame that fills the buffer exactly. -/
theorem witness_CtrlWriteRule_parse :
    (pend (.regWrite 0 3) { doneState with fh := ⟨16777215, 0, 0, 1⟩ }).inputs = [.regWrite 0 3] ∧ (3#32).toNat % 8 = 3 ∧
    doneState.phase.busy = false ∧ (16777215#24).toNat ≤ doneState.params.payloadCap.toNat := by decide
theorem witness_CtrlWriteRule_parse_above_capacity :
    (pend (.regWrite 0 3) { doneState with params := { payloadCap := 4 }, fh := ⟨5, 0, 0, 1⟩ }).inputs = [.regWrite 0 3] ∧
    (3#32).toNat % 8 = 3 ∧ doneState.phase.busy = false ∧ (4#24).toNat < (5#24).toNat := by decide
theorem witness_CtrlWriteRule_encodeHeader :
    (pend (.regWrite 0 0xFC) doneState).inputs = [.regWrite 0 0xFC] ∧ (0xFC#32).toNat % 8 = 4 ∧ doneState.phase.busy = false := by
  decide
theorem witness_CommandsStart :
    State.reset.phase.busy = false ∧ State.reset.fh.length.toNat ≤ State.reset.params.payloadCap.toNat := by decide
theorem witness_CapacityRefusalIsStuck_parse :
    ({ doneState with params := { payloadCap := 4 }, fh := ⟨5, 0, 0, 1⟩ } : State).phase.busy = false ∧
    (4#24).toNat < (5#24).toNat := by decide
theorem witness_CapacityRefusalIsStuck_unit : stuckState.stuck ∧ stuckState.unitMoves = true := ⟨by unfold State.stuck; decide, rfl⟩
theorem witness_CapacityRefusalIsStuck_reset :
    (pend .reset stuckState).stuck ∧ (pend .reset stuckState).inputs = [.reset] ∧ ∃ t, step (pend .reset stuckState) = .next t :=
  ⟨by unfold State.stuck; decide, rfl, _, rfl⟩
theorem witness_CapacityRefusalIsStuck_other :
    (pend (.regRead 4) stuckState).stuck ∧ (pend (.regRead 4) stuckState).inputs = [.regRead 4] ∧ Event.regRead 4 ≠ .reset ∧
    ∃ t, step (pend (.regRead 4) stuckState) = .next t :=
  ⟨by unfold State.stuck; decide, rfl, by decide, _, rfl⟩
/-- Eight header bytes are in: the last HCNT that is not the refusal's. -/
theorem witness_CapacityRefusalIsStuck_outside : ¬ (hdrState 1 8 []).stuck ∧ (hdrState 1 8 []).phase = .hdr :=
  ⟨by unfold State.stuck; decide, rfl⟩
theorem witness_CapacityRefusalIsStuck_default :
    State.Inv (payState 5 []) ∧ (payState 5 []).params.payloadCap = 16777215 ∧ (payState 5 []).phase = .pay := by
  refine ⟨?_, rfl, rfl⟩
  constructor <;> try decide
  constructor <;> decide
theorem witness_NoErrorIsLatched :
    doneState.phase.busy = false ∧ Instr.parse ∈ [Instr.readFrame, .decodeHeader, .parse, .encodeHeader] ∧
    Instr.passUnknown 7 ∈ frameTargets 7 := by decide

/-! ParseDataRule: n = 4 with pad = n - 1 and pad = n meet at the boundary -/

theorem witness_ParseDataRule_plain :
    (frameState 0 1 1 [1, 2]).fh.streamID ≠ 0 ∧ (frameState 0 1 1 [1, 2]).isPadded = false := by decide
theorem witness_ParseDataRule_padded :
    (frameState 0 8 1 [3, 0, 0, 0]).fh.streamID ≠ 0 ∧ (frameState 0 8 1 [3, 0, 0, 0]).isPadded = true ∧
    1 ≤ (frameState 0 8 1 [3, 0, 0, 0]).fh.length.toNat ∧
    ((frameState 0 8 1 [3, 0, 0, 0]).payloadByte 0).toNat ≤ (frameState 0 8 1 [3, 0, 0, 0]).fh.length.toNat - 1 := by decide
theorem witness_ParseDataRule_stream_zero : (frameState 0 8 0 [5, 0]).fh.streamID = 0 := by decide
theorem witness_ParseDataRule_short :
    (frameState 0 8 1 []).fh.streamID ≠ 0 ∧ (frameState 0 8 1 []).isPadded = true ∧ (frameState 0 8 1 []).fh.length.toNat = 0 := by
  decide
theorem witness_ParseDataRule_padTooLong :
    (frameState 0 8 1 [4, 0, 0, 0]).fh.streamID ≠ 0 ∧ (frameState 0 8 1 [4, 0, 0, 0]).isPadded = true ∧
    1 ≤ (frameState 0 8 1 [4, 0, 0, 0]).fh.length.toNat ∧
    (frameState 0 8 1 [4, 0, 0, 0]).fh.length.toNat - 1 < ((frameState 0 8 1 [4, 0, 0, 0]).payloadByte 0).toNat := by decide
/-- Every undefined bit of the type set, END_STREAM and PADDED the same. -/
theorem witness_ParseDataRule_flags :
    (0xff : Byte) &&& (0x01 ||| 0x08) = (frameState 0 9 1 [0]).fh.flags &&& (0x01 ||| 0x08) ∧
    (frameState 0 9 1 [0]).params.flags = { endStream := 0x01, padded := 0x08 } ∧ (0xff : Byte) ≠ (frameState 0 9 1 [0]).fh.flags := by
  decide

/-! ParseHeadersRule: with PADDED and PRIORITY, o = 1 and off = 6 -/

theorem witness_ParseHeadersRule_frame :
    (frameState 1 0x2c 3 [1, 0x80, 0, 0, 1, 0x10, 0xaa, 0]).fh.streamID ≠ 0 ∧
    (frameState 1 0x2c 3 [1, 0x80, 0, 0, 1, 0x10, 0xaa, 0]).isPadded = true ∧
    (frameState 1 0x2c 3 [1, 0x80, 0, 0, 1, 0x10, 0xaa, 0]).isPrio = true ∧
    6 + ((frameState 1 0x2c 3 [1, 0x80, 0, 0, 1, 0x10, 0xaa, 0]).payloadByte 0).toNat <
      (frameState 1 0x2c 3 [1, 0x80, 0, 0, 1, 0x10, 0xaa, 0]).fh.length.toNat := by decide
theorem witness_ParseHeadersRule_stream_zero : (frameState 1 0 0 [1]).fh.streamID = 0 := by decide
theorem witness_ParseHeadersRule_pad_short :
    (frameState 1 8 1 []).fh.streamID ≠ 0 ∧ (frameState 1 8 1 []).isPadded = true ∧ (frameState 1 8 1 []).fh.length.toNat = 0 := by
  decide
theorem witness_ParseHeadersRule_word_short :
    (frameState 1 0x28 1 [0, 1, 2, 3]).fh.streamID ≠ 0 ∧ (frameState 1 0x28 1 [0, 1, 2, 3]).isPrio = true ∧
    (frameState 1 0x28 1 [0, 1, 2, 3]).isPadded = true ∧ 1 ≤ (frameState 1 0x28 1 [0, 1, 2, 3]).fh.length.toNat ∧
    (frameState 1 0x28 1 [0, 1, 2, 3]).fh.length.toNat < 1 + 4 := by decide
theorem witness_ParseHeadersRule_weight_missing :
    (frameState 1 0x20 1 [0, 1, 2, 3]).fh.streamID ≠ 0 ∧ (frameState 1 0x20 1 [0, 1, 2, 3]).isPrio = true ∧
    (frameState 1 0x20 1 [0, 1, 2, 3]).isPadded = false ∧ (frameState 1 0x20 1 [0, 1, 2, 3]).fh.length.toNat = 0 + 4 := by decide
/-- The fragment length is exactly 0. -/
theorem witness_ParseHeadersRule_empty :
    (frameState 1 8 3 [2, 0, 0]).fh.streamID ≠ 0 ∧ (frameState 1 8 3 [2, 0, 0]).isPadded = true ∧
    (frameState 1 8 3 [2, 0, 0]).isPrio = false ∧ 1 ≤ (frameState 1 8 3 [2, 0, 0]).fh.length.toNat ∧
    (frameState 1 8 3 [2, 0, 0]).fh.length.toNat ≤ 1 + ((frameState 1 8 3 [2, 0, 0]).payloadByte 0).toNat := by decide
theorem witness_ParseHeadersRule_flags :
    (0xfe : Byte) &&& (0x01 ||| 0x04 ||| 0x08 ||| 0x20) =
      (frameState 1 0x2c 3 [1, 0x80, 0, 0, 1, 0x10, 0xaa, 0]).fh.flags &&& (0x01 ||| 0x04 ||| 0x08 ||| 0x20) ∧
    (frameState 1 0x2c 3 []).params.flags = { endStream := 0x01, endHeaders := 0x04, padded := 0x08, priority := 0x20 } := by decide

/-! ParsePriorityRule, ParseRstStreamRule, ParseSettingsRule -/

theorem witness_ParsePriorityRule_frame :
    (frameState 2 0 3 [0x80, 0, 0, 1, 15]).fh.streamID ≠ 0 ∧ (frameState 2 0 3 [0x80, 0, 0, 1, 15]).fh.length.toNat = 5 := by decide
theorem witness_ParsePriorityRule_stream_zero : (frameState 2 0 0 [0, 0, 0, 0]).fh.streamID = 0 := by decide
theorem witness_ParsePriorityRule_size :
    (frameState 2 0 1 [0, 0, 0, 0]).fh.streamID ≠ 0 ∧ (frameState 2 0 1 [0, 0, 0, 0]).fh.length.toNat ≠ 5 := by decide
theorem witness_ParseRstStreamRule_frame :
    (frameState 3 0 1 [255, 255, 255, 255]).fh.streamID ≠ 0 ∧ (frameState 3 0 1 [255, 255, 255, 255]).fh.length.toNat = 4 := by
  decide
theorem witness_ParseRstStreamRule_stream_zero :
    (frameState 3 0 0 [0, 0, 0, 8]).fh.streamID = 0 ∧ (frameState 3 0 0 [0, 0, 0, 8]).fh.length.toNat = 4 := by decide
theorem witness_ParseRstStreamRule_size :
    (frameState 3 0 5 [0, 0, 0]).fh.streamID ≠ 0 ∧ (frameState 3 0 5 [0, 0, 0]).fh.length.toNat ≠ 4 := by decide
theorem witness_ParseRstStreamRule_both_size_first :
    (frameState 3 0 0 []).fh.streamID = 0 ∧ (frameState 3 0 0 []).fh.length.toNat ≠ 4 ∧
    (frameState 3 0 0 []).params.rstCheckOrder = .sizeFirst := by decide
theorem witness_ParseRstStreamRule_both_id_first :
    ({ frameState 3 0 0 [] with params := { rstCheckOrder := .idFirst } } : State).fh.streamID = 0 ∧
    ({ frameState 3 0 0 [] with params := { rstCheckOrder := .idFirst } } : State).fh.length.toNat ≠ 4 ∧
    ({ frameState 3 0 0 [] with params := { rstCheckOrder := .idFirst } } : State).params.rstCheckOrder = .idFirst := by decide
theorem witness_ParseSettingsRule_whole :
    (frameState 4 0 0 [0, 3, 0, 0, 0, 100]).fh.length.toNat % 6 = 0 := by decide
theorem witness_ParseSettingsRule_truncate :
    (frameState 4 0 0 [0, 3, 0, 0, 0, 100, 7]).fh.length.toNat % 6 ≠ 0 ∧
    (frameState 4 0 0 [0, 3, 0, 0, 0, 100, 7]).params.settingsPartial = .truncate := by decide
theorem witness_ParseSettingsRule_reject :
    ({ frameState 4 0 0 [7] with params := { settingsPartial := .reject } } : State).fh.length.toNat % 6 ≠ 0 ∧
    ({ frameState 4 0 0 [7] with params := { settingsPartial := .reject } } : State).params.settingsPartial = .reject := by decide
theorem witness_ParseSettingsRule_flags :
    (0xfe : Byte) &&& 0x01 = (frameState 4 0 0 [7]).fh.flags &&& 0x01 ∧ (frameState 4 0 0 [7]).params.flags.ack = 0x01 := by decide

/-! ParsePushPromiseRule: with PADDED, o = 1 -/

theorem witness_ParsePushPromiseRule_frame :
    (frameState 5 8 1 [1, 0, 0, 0, 2, 9]).fh.streamID ≠ 0 ∧ (frameState 5 8 1 [1, 0, 0, 0, 2, 9]).isPadded = true ∧
    1 + 4 + ((frameState 5 8 1 [1, 0, 0, 0, 2, 9]).payloadByte 0).toNat ≤ (frameState 5 8 1 [1, 0, 0, 0, 2, 9]).fh.length.toNat := by
  decide
theorem witness_ParsePushPromiseRule_stream_zero : (frameState 5 0 0 []).fh.streamID = 0 := by decide
theorem witness_ParsePushPromiseRule_pad_short :
    (frameState 5 8 1 []).fh.streamID ≠ 0 ∧ (frameState 5 8 1 []).isPadded = true ∧ (frameState 5 8 1 []).fh.length.toNat = 0 := by
  decide
theorem witness_ParsePushPromiseRule_word_short :
    (frameState 5 4 1 [0, 0, 0]).fh.streamID ≠ 0 ∧ (frameState 5 4 1 [0, 0, 0]).isPadded = false ∧
    (frameState 5 4 1 [0, 0, 0]).fh.length.toNat < 0 + 4 := by decide
theorem witness_ParsePushPromiseRule_padTooLong :
    (frameState 5 8 1 [1, 0, 0, 0, 2]).fh.streamID ≠ 0 ∧ (frameState 5 8 1 [1, 0, 0, 0, 2]).isPadded = true ∧
    1 + 4 ≤ (frameState 5 8 1 [1, 0, 0, 0, 2]).fh.length.toNat ∧
    (frameState 5 8 1 [1, 0, 0, 0, 2]).fh.length.toNat < 1 + 4 + ((frameState 5 8 1 [1, 0, 0, 0, 2]).payloadByte 0).toNat := by
  decide
theorem witness_ParsePushPromiseRule_flags :
    (0xf7 : Byte) &&& (0x04 ||| 0x08) = (frameState 5 4 1 [0, 0, 0, 2]).fh.flags &&& (0x04 ||| 0x08) ∧
    (frameState 5 4 1 [0, 0, 0, 2]).params.flags = { endHeaders := 0x04, padded := 0x08 } := by decide

/-! Outcomes, views and frames -/

theorem witness_PassThroughRule :
    Instr.passUnparsedPing ∈
      [Instr.passUnparsedPing, .passUnparsedGoaway, .passUnparsedWindowUpdate, .passUnparsedContinuation] := by decide
theorem witness_ErrorWritesNoFrameField :
    Instr.parseData ∈ frameTargets 0 ∧
    ∃ t, exec .parseData (frameState 0 0 0 []) = .next t ∧ t.res.resKind = .connError := ⟨by decide, _, rfl, by decide⟩
theorem witness_ViewLiesInsideTheFrame :
    Instr.parseData ∈ frameTargets 0 ∧
    ∃ t, exec .parseData (frameState 0 8 1 [1, 2, 3]) = .next t ∧ t.res.frame.contentOff = 1 ∧ t.res.frame.contentLen = 1 :=
  ⟨by decide, _, rfl, by decide⟩
theorem witness_ParsersReadAtMostSixBytes :
    ∀ a : Nat, a < 6 → a < (8#24).toNat → (fun _ => 1 : Nat → Byte) a = (fun b => if b < 6 then 1 else 2 : Nat → Byte) a := by
  decide
theorem witness_FrameTargetsFrame :
    Instr.parseRstStream ∈ frameTargets 3 ∧ ∃ t, exec .parseRstStream (frameState 3 0 1 [0, 0, 0, 8]) = .next t :=
  ⟨by decide, _, rfl⟩
theorem witness_CommandsFrame :
    (∃ t, exec .nop doneState = .next t) ∧ (∃ t, exec .reserved5 doneState = .next t) ∧
    (∃ t, exec .readFrame doneState = .next t) ∧ (∃ t, exec .parse doneState = .next t) ∧
    (∃ t, exec .encodeHeader doneState = .next t) := ⟨⟨_, rfl⟩, ⟨_, rfl⟩, ⟨_, rfl⟩, ⟨_, rfl⟩, ⟨_, rfl⟩⟩

/-! The byte input port -/

theorem witness_HeaderByteStep_more :
    (hdrState 1 7 [9]).unitMoves = true ∧ (hdrState 1 7 [9]).phase = .hdr ∧ (hdrState 1 7 [9]).hcnt.toNat < 8 ∧
    (hdrState 1 7 [9]).source.bytes = [9] := by decide
theorem witness_HeaderByteStep_decodeHeader :
    (hdrState 2 8 [1]).unitMoves = true ∧ (hdrState 2 8 [1]).phase = .hdr ∧ (hdrState 2 8 [1]).hcnt.toNat = 8 ∧
    (hdrState 2 8 [1]).curCmd = 2 ∧ (hdrState 2 8 [1]).source.bytes = [1] := by decide
/-- HDR before the ninth byte of a header with length 2, and a buffer of `cap` bytes. -/
def lastByteState (cap : Nat) : State := { hdrState 1 8 [1] with params := { payloadCap := BitVec.ofNat 24 cap } }

theorem witness_HeaderByteStep_capacity :
    (lastByteState 1).unitMoves = true ∧ (lastByteState 1).phase = .hdr ∧ (lastByteState 1).hcnt.toNat = 8 ∧
    (lastByteState 1).curCmd ≠ 2 ∧ (lastByteState 1).source.bytes = [1] ∧
    (lastByteState 1).params.payloadCap.toNat < (decodeHeader (setByte9 (lastByteState 1).hdrBuf 8 1)).length.toNat := by decide
/-- A frame that fills the buffer exactly. -/
theorem witness_HeaderByteStep_payload :
    (lastByteState 2).unitMoves = true ∧ (lastByteState 2).phase = .hdr ∧ (lastByteState 2).hcnt.toNat = 8 ∧
    (lastByteState 2).curCmd ≠ 2 ∧ (lastByteState 2).source.bytes = [1] ∧
    (decodeHeader (setByte9 (lastByteState 2).hdrBuf 8 1)).length.toNat ≤ (lastByteState 2).params.payloadCap.toNat ∧
    (decodeHeader (setByte9 (lastByteState 2).hdrBuf 8 1)).length ≠ 0 := by decide
/-- HDR before the ninth byte of a header with length 0. -/
def emptyFrameState : State := { hdrState 1 8 [1] with hdrBuf := ⟨0, 0, 0, 4, 1, 0, 0, 0, 0⟩ }

theorem witness_HeaderByteStep_empty :
    emptyFrameState.unitMoves = true ∧ emptyFrameState.phase = .hdr ∧ emptyFrameState.hcnt.toNat = 8 ∧
    emptyFrameState.curCmd ≠ 2 ∧ emptyFrameState.source.bytes = [1] ∧
    (decodeHeader (setByte9 emptyFrameState.hdrBuf 8 1)).length = 0 := by decide
theorem witness_PayloadByteStep :
    (payState 3 [7]).unitMoves = true ∧ (payState 3 [7]).phase = .pay ∧ (payState 3 [7]).source.bytes = [7] ∧
    (payState 3 [7]).pcnt + 1 = (payState 3 [7]).fh.length ∧ (payState 4 [7]).pcnt + 1 ≠ (payState 4 [7]).fh.length := by decide
theorem witness_EndOfInputOutcomes_header :
    ({ hdrState 1 0 [] with source := ⟨[], true⟩ } : State).unitMoves = true ∧
    ({ hdrState 1 0 [] with source := ⟨[], true⟩ } : State).phase = .hdr ∧
    ({ hdrState 1 0 [] with source := ⟨[], true⟩ } : State).hcnt.toNat < 9 ∧
    ({ hdrState 1 0 [] with source := ⟨[], true⟩ } : State).source = ⟨[], true⟩ := by decide
theorem witness_EndOfInputOutcomes_payload :
    ({ payState 5 [] with source := ⟨[], true⟩ } : State).unitMoves = true ∧
    ({ payState 5 [] with source := ⟨[], true⟩ } : State).phase = .pay ∧
    ({ payState 5 [] with source := ⟨[], true⟩ } : State).source = ⟨[], true⟩ := by decide
theorem witness_EndOfInputOutcomes_byte_first :
    (hdrState 1 8 [1]).unitMoves = true ∧ (hdrState 1 8 [1]).inReady = true ∧ (hdrState 1 8 [1]).source.bytes = 1 :: [] := by decide
theorem witness_TheUnitWaits_rest : State.reset.unitMoves = true ∧ State.reset.phase = .idle := by decide
theorem witness_TheUnitWaits_silent :
    (hdrState 1 8 []).unitMoves = true ∧ (hdrState 1 8 []).phase = .hdr ∧ (hdrState 1 8 []).hcnt.toNat < 9 ∧
    (hdrState 1 8 []).source.bytes = [] ∧ (hdrState 1 8 []).source.eoi = false ∧ (payState 5 []).phase = .pay := by decide
theorem witness_BytesLeaveOnlyByByteSteps_taken :
    (∃ t, step (payState 3 [7]) = .next t) ∧ (payState 3 [7]).unitMoves = true ∧ (payState 3 [7]).inReady = true ∧
    (payState 3 [7]).source.bytes = 7 :: [] := ⟨⟨_, rfl⟩, by decide⟩
theorem witness_BytesLeaveOnlyByByteSteps_kept :
    (∃ t, step { doneState with source := ⟨[7], false⟩ } = .next t) ∧ doneState.inReady = false ∧
    doneState.inputs.head? = none := ⟨⟨_, rfl⟩, by decide⟩
/-- `in_ready` is 1 and no byte is offered. -/
theorem witness_BytesLeaveOnlyByByteSteps_none :
    (∃ t, step (payState 3 []) = .next t) ∧ (payState 3 []).unitMoves = true ∧ (payState 3 []).inReady = true ∧
    (payState 3 []).source.bytes = [] := ⟨⟨_, rfl⟩, by decide⟩
theorem witness_BytesLeaveOnlyByByteSteps_offered :
    (∃ t, step (pend (.offer 3) (hdrState 1 2 [7])) = .next t) ∧ (pend (.offer 3) (hdrState 1 2 [7])).inputs.head? = some (.offer 3) :=
  ⟨⟨_, rfl⟩, by decide⟩

/-! Running -/

theorem witness_StepRunsTheDecodedInstruction_ctrl :
    (pend (.regWrite 0x00 4) doneState).inputs = [.regWrite 0x00 4] ∧ decode doneState.params.types (.ctrl 4) = .encodeHeader := by
  decide
theorem witness_StepRunsTheDecodedInstruction_exec :
    (frameState 9 4 1 []).unitMoves = true ∧ (frameState 9 4 1 []).phase = .exec ∧
    decode (frameState 9 4 1 []).params.types (.frameType (frameState 9 4 1 []).fh.typ) = .passUnparsedContinuation := by decide
theorem witness_FetchedWordRunsNext :
    State.reset.params.types = {} ∧ decodeTableWord 8 0x0A = some (.passUnknown 0x0A) ∧ decodeTableWord 32 1 = some .readFrame := by
  decide
theorem witness_ExecStepIsParseFrame :
    (frameState 0 0 1 [1]).unitMoves = true ∧ (frameState 0 0 1 [1]).phase = .exec := by decide
theorem witness_ParseCommandRuns :
    doneState.phase.busy = false ∧ (pend (.regWrite 0x00 3) doneState).inputs = [.regWrite 0x00 3] ∧ (3#32).toNat % 8 = 3 ∧
    doneState.fh.length.toNat ≤ doneState.params.payloadCap.toNat := by decide

/-- READ_FRAME pending, with the byte source's whole content given. -/
def readState (bytes : List Nat) : State :=
  { State.reset with inputs := [.regWrite 0x00 1], source := ⟨bytes.map (BitVec.ofNat 8), true⟩ }

/-- A whole frame of one byte. -/
def wholeFrame : State := readState [0, 0, 1, 0, 1, 0, 0, 0, 1, 0x68]

theorem witness_ReadFrameRefinesThePureForm_whole :
    wholeFrame.phase.busy = false ∧ wholeFrame.inputs = [.regWrite 0x00 1] ∧ (1#32).toNat % 8 = 1 ∧
    wholeFrame.source.eoi = true ∧ 9 ≤ wholeFrame.source.bytes.length ∧
    (headOf wholeFrame.source.bytes).length.toNat ≤ wholeFrame.params.payloadCap.toNat := by decide
theorem witness_ReadFrameRefinesThePureForm_short :
    (readState [0, 0, 5]).phase.busy = false ∧ (readState [0, 0, 5]).inputs = [.regWrite 0x00 1] ∧ (1#32).toNat % 8 = 1 ∧
    (readState [0, 0, 5]).source.eoi = true ∧ (readState [0, 0, 5]).source.bytes.length < 9 := by decide
/-- V15's outcome in the pure form. -/
theorem test_pure_form_short_payload :
    readFrame {} ([0, 0, 5, 0, 0, 0, 0, 0, 1, 0x68, 0x65] : List Byte) = .transport .payloadShort 2 5 ∧
    consumed ([0, 0, 5, 0, 0, 0, 0, 0, 1, 0x68, 0x65] : List Byte) = 11 := by decide
theorem witness_ReadFrameStepCount :
    wholeFrame.phase.busy = false ∧ wholeFrame.inputs = [.regWrite 0x00 1] ∧ (1#32).toNat % 8 = 1 ∧
    9 + (headOf wholeFrame.source.bytes).length.toNat ≤ wholeFrame.source.bytes.length ∧
    (headOf wholeFrame.source.bytes).length.toNat ≤ wholeFrame.params.payloadCap.toNat := by decide
/-- V2's header with a payload byte behind it. -/
def headerPending : State := { readState [0, 0, 4, 8, 0, 0x80, 0, 0, 1, 7] with inputs := [.regWrite 0x00 2] }

theorem witness_DecodeHeaderTakesNineBytes :
    headerPending.phase.busy = false ∧ headerPending.inputs = [.regWrite 0x00 2] ∧ (2#32).toNat % 8 = 2 ∧
    9 ≤ headerPending.source.bytes.length := by decide

/-! Settings -/

/-- The entries 3 ↦ 1 and 4 ↦ 2. -/
def twoEntries : Nat → Byte := fun a => [0, 3, 0, 0, 0, 1, 0, 4, 0, 0, 0, 2].getD a 0

theorem witness_SettingsMappingLaw_distinct :
    ∀ j, j < 2 → ∀ i, i < j → settingId twoEntries i ≠ settingId twoEntries j := by decide
/-- DONE after the Settings frame of vector V6, with SQ_ID 3. -/
def settingsState : State :=
  { frameState 4 0 0 [0, 3, 0, 0, 0, 0x64, 0, 3, 0, 0, 0, 0xc8] with
    phase := .done, sqId := 3, res := { resKind := .frame, frameKind := .settings, frame := { setCount := 2 } } }
theorem witness_SettingsQueryRegisters_present :
    settingsState.res.resKind = .frame ∧ settingsState.res.frameKind = .settings ∧ 1 < settingsState.res.frame.setCount.toNat ∧
    BE [settingsState.payloadByte 6, settingsState.payloadByte 7] = settingsState.sqId.toNat ∧
    ∀ j, j < settingsState.res.frame.setCount.toNat → 1 < j →
      BE [settingsState.payloadByte (6 * j), settingsState.payloadByte (6 * j + 1)] ≠ settingsState.sqId.toNat := by decide
theorem witness_SettingsQueryRegisters_other_id :
    ∀ i, i < settingsState.res.frame.setCount.toNat →
      BE [settingsState.payloadByte (6 * i), settingsState.payloadByte (6 * i + 1)] ≠
        ({ settingsState with sqId := 4 } : State).sqId.toNat := by decide
theorem witness_SettingsQueryRegisters_no_settings :
    ¬ (doneState.res.resKind = .frame ∧ doneState.res.frameKind = .settings) := by decide

/-! The ports -/

theorem witness_WritableRegisters_rest :
    (pend (.regWrite 0x0C 0x104) doneState).inputs = [.regWrite 0x0C 0x104] ∧ doneState.phase.busy = false := by decide
theorem witness_WritableRegisters_fh_len :
    (pend (.regWrite 0x08 0xFFFFFFFF) State.reset).inputs = [.regWrite 0x08 0xFFFFFFFF] ∧ State.reset.phase.busy = false := by decide
theorem witness_WritableRegisters_fh_sid :
    (pend (.regWrite 0x10 0x80000001) doneState).inputs = [.regWrite 0x10 0x80000001] ∧ doneState.phase.busy = false := by decide
theorem witness_WritableRegisters_sq_id :
    (pend (.regWrite 0x48 0x10003) (payState 5 [])).inputs = [.regWrite 0x48 0x10003] := by decide
theorem witness_WritableRegisters_busy :
    (pend (.regWrite 0x08 9) (payState 5 [])).inputs = [.regWrite 0x08 9] ∧ (payState 5 []).phase.busy = true := by decide
theorem witness_ReadOnlyAndUnlistedOffsets_write :
    (pend (.regWrite 0x50 9) doneState).inputs = [.regWrite 0x50 9] ∧ 0x50 % 4 = 0 ∧ 0x50 ∉ [0x00, 0x08, 0x0C, 0x10, 0x48] ∧
    0x4C ∉ [0x00, 0x08, 0x0C, 0x10, 0x48] := by decide
theorem witness_ReadOnlyAndUnlistedOffsets_read : 0x4C < 0x50 ∧ 2 % 4 ≠ 0 := by decide
theorem witness_RegisterReadsHaveNoSideEffect :
    (pend (.regRead 0x4C) doneState).inputs = [.regRead 0x4C] ∧ 0x4C % 4 = 0 ∧
    (pend (.regRead 0x4E) doneState).inputs = [.regRead 0x4E] ∧ 0x4E % 4 ≠ 0 := by decide
theorem witness_PayloadPortRule_write :
    (pend (.payloadWrite 16777214 1) doneState).inputs = [.payloadWrite 16777214 1] ∧
    16777214 < doneState.params.payloadCap.toNat ∧ doneState.phase.busy = false := by decide
theorem witness_PayloadPortRule_busy :
    (pend (.payloadWrite 0 1) (payState 5 [])).inputs = [.payloadWrite 0 1] ∧ 0 < (payState 5 []).params.payloadCap.toNat ∧
    (payState 5 []).phase.busy = true := by decide
theorem witness_PayloadPortRule_read :
    (pend (.payloadRead 0) (payState 5 [])).inputs = [.payloadRead 0] ∧ 0 < (payState 5 []).params.payloadCap.toNat := by decide
theorem witness_PayloadPortRule_refused :
    (pend (.payloadRead 4) stuckState).inputs = [.payloadRead 4] ∧ stuckState.params.payloadCap.toNat ≤ 4 := by decide

/-! Whole-machine rules -/

theorem witness_ResultsAreStable_acceptance :
    ∃ t, step (pend (.regWrite 0 1) doneState) = .next t ∧ t.res ≠ (pend (.regWrite 0 1) doneState).res := ⟨_, rfl, by decide⟩
theorem witness_ResultsAreStable_outcome :
    ∃ t, step (frameState 0 0 1 []) = .next t ∧ t.res ≠ (frameState 0 0 1 []).res := ⟨_, rfl, by decide⟩
theorem witness_ResultsAreStable_reset :
    ∃ t, step (pend .reset doneState) = .next t ∧ t.res ≠ (pend .reset doneState).res := ⟨_, rfl, by decide⟩
theorem witness_HeaderRegistersWrittenOnlyByDecodeAndHost_decode :
    ∃ t, step (hdrState 1 8 [1]) = .next t ∧ t.fh ≠ (hdrState 1 8 [1]).fh := ⟨_, rfl, by decide⟩
theorem witness_HeaderRegistersWrittenOnlyByDecodeAndHost_host :
    ∃ t, step (pend (.regWrite 0x10 5) doneState) = .next t ∧ t.fh ≠ (pend (.regWrite 0x10 5) doneState).fh := ⟨_, rfl, by decide⟩
theorem witness_HeaderRegistersWrittenOnlyByDecodeAndHost_reset :
    ∃ t, step (pend .reset (payState 5 [])) = .next t ∧ t.fh ≠ (pend .reset (payState 5 [])).fh := ⟨_, rfl, by decide⟩
theorem witness_EncSqIdAndParametersWriters_enc :
    ∃ t, step (pend (.regWrite 0 4) { doneState with fh := ⟨1, 0, 0, 1⟩ }) = .next t ∧ t.enc ≠ doneState.enc := ⟨_, rfl, by decide⟩
theorem witness_EncSqIdAndParametersWriters_sqId :
    ∃ t, step (pend (.regWrite 0x48 4) (hdrState 1 0 [])) = .next t ∧ t.sqId ≠ (hdrState 1 0 []).sqId := ⟨_, rfl, by decide⟩
theorem witness_PayloadWriters_step :
    ∃ t, step { payState 5 [7] with payload := bytesFrom 0 [1, 2, 3] } = .next t ∧
      t.payloadByte 2 ≠ ({ payState 5 [7] with payload := bytesFrom 0 [1, 2, 3] } : State).payloadByte 2 := ⟨_, rfl, by decide⟩
theorem witness_PayloadWriters_host :
    ∃ t, step (pend (.payloadWrite 0 9) { doneState with payload := bytesFrom 0 [1] }) = .next t ∧
      t.payloadByte 0 ≠ (pend (.payloadWrite 0 9) { doneState with payload := bytesFrom 0 [1] }).payloadByte 0 :=
  ⟨_, rfl, by decide⟩
/-- Two buffers that agree on the one byte collected and nowhere else. -/
theorem witness_HdrBufIsUnobservable :
    (hdrState 1 1 [5]).hdrLive = 1 ∧ getByte9 (hdrState 1 1 [5]).hdrBuf 0 = getByte9 ⟨0, 9, 9, 9, 9, 9, 9, 9, 9⟩ 0 ∧
    (hdrState 1 1 [5]).hdrBuf ≠ ⟨0, 9, 9, 9, 9, 9, 9, 9, 9⟩ := by decide
theorem witness_ResetRule : (pend .reset stuckState).inputs = [.reset] := by decide
theorem witness_DoneDropsOnlyAtAcceptance :
    ∃ t, step (pend (.regWrite 0 3) doneState) = .next t ∧ doneState.doneOutput = true ∧ t.doneOutput = false :=
  ⟨_, rfl, by decide⟩
theorem witness_InstancesAreIndependent :
    ∃ q, Platform.step (Platform.reset [(0x1000, {}), (0x2000, {})]) 1 = some (.next q) := ⟨_, rfl⟩
/-- The first code without a name, and the last code. -/
theorem witness_ErrCodeDisplayNames : 14 ≤ (0xe#32).toNat ∧ 14 ≤ (0xffffffff#32).toNat := by decide

/-- A state in PAY meets the whole invariant. -/
theorem witness_StepKeepsTheInvariant : State.Inv (payState 5 [7]) ∧ ∃ t, step (payState 5 [7]) = .next t := by
  refine ⟨?_, _, rfl⟩
  constructor <;> try decide
  constructor <;> decide

end Sys2Proof.Tests
end

/-! PROOFS (scope). The capacity refusal (O13), and where the view of a parser's outcome lies (O24). -/

namespace Sys2Proof.Machine

/-! ### The capacity refusal -/

theorem startParse_above {s : State} (h : s.params.payloadCap.toNat < s.fh.length.toNat) :
    startParse s = capacityRefusal s := if_pos h

/-- Being stuck depends on PHASE and HCNT only. -/
theorem State.stuck_congr {s t : State} (hphase : t.phase = s.phase) (hhcnt : t.hcnt = s.hcnt) : t.stuck ↔ s.stuck := by
  simp only [State.stuck, hphase, hhcnt]

theorem State.popped_stuck {s : State} : s.popped.stuck ↔ s.stuck := State.stuck_congr rfl rfl

theorem State.busy_of_stuck {s : State} (h : s.stuck) : s.phase.busy = true := by rw [h.1]; rfl

/-- With nine header bytes in, the length is above the capacity (the invariant), which no 24-bit length can be at the default. -/
theorem State.Inv.not_stuck_of_default_cap {s : State} (hs : s.Inv) (hcap : s.params.payloadCap = 16777215) : ¬ s.stuck := by
  rintro ⟨hphase, hnine⟩
  have habove := hs.capacity hphase (Nat.le_antisymm hs.hcnt hnine)
  have hlen := s.fh.length.isLt
  rw [hcap] at habove
  simp only [BitVec.reduceToNat] at habove
  omega

/-- In a busy phase every register but CTRL and SQ_ID ignores a write, and SQ_ID is no part of the frame reader (R45, R46). -/
theorem State.regWrite_busy {s : State} (h : s.phase.busy = true) (r : Reg) (v : Word) :
    ∃ q, s.regWrite r v = { s with sqId := q } := by
  cases r <;> simp only [State.regWrite, State.writeHeader, h, if_true] <;> exact ⟨_, rfl⟩

/-- In a busy phase a CTRL write is NOP or rejected (R44). -/
theorem CtrlResult.of_busy {s t : State} {op : Nat} (hc : CtrlResult s op t) (h : s.phase.busy = true) :
    t = s ∨ t = s.reject := by
  rcases hc with ⟨-, rfl⟩ | rfl | ⟨hfree, -⟩
  · exact .inl rfl
  · exact .inr rfl
  · simp [h] at hfree

/-- While the unit is busy, no event but its own turn and reset moves PHASE, HCNT or the header. -/
theorem deliver_busy_keeps {s t : State} {e : Event} (h : deliver e s = .next t) (hbusy : s.phase.busy = true)
    (hunit : e ≠ .unitTurn) (hreset : e ≠ .reset) : t.phase = s.phase ∧ t.hcnt = s.hcnt ∧ t.fh = s.fh := by
  rcases deliver_cases h hunit with rfl | ⟨r, rfl⟩ | ⟨a, v, -, -, -, rfl⟩ | ⟨x, rfl⟩ | ⟨he, -⟩ | ⟨off, v, r, -, -, -, rfl⟩ |
    ⟨v, -, hc⟩
  · simp
  · simp
  · simp
  · simp
  · exact absurd he hreset
  · obtain ⟨q, hq⟩ := State.regWrite_busy hbusy r v
    simp [hq]
  · rcases hc.of_busy hbusy with rfl | rfl <;> simp

theorem exec_parse_above_capacity {s : State} (hfree : s.phase.busy = false)
    (habove : s.params.payloadCap.toNat < s.fh.length.toNat) :
    exec .parse s = .next (capacityRefusal (s.accept 3)) := by
  have hstart : startParse (s.accept 3) = capacityRefusal (s.accept 3) := startParse_above habove
  simp only [exec, execParse, State.command_free hfree, hstart]

theorem step_unit_stuck {s : State} (hs : s.stuck) (hu : s.unitMoves = true) : step s = .fault .capacityStuck := by
  rw [step_unit hu, unitStep_stuck (State.popped_stuck.mpr hs)]

/-- What an event does to the capacity refusal: reset ends it, and any other event that has a step keeps it and the header. -/
theorem step_stuck {s t : State} {e : Event} {rest : List Event} (hs : s.stuck) (hin : s.inputs = e :: rest)
    (h : step s = .next t) : (e = .reset → t.phase = .idle) ∧ (e ≠ .reset → t.stuck ∧ t.fh = s.fh) := by
  rw [step_cons hin] at h
  refine ⟨?_, fun hreset => ?_⟩
  · rintro rfl
    cases h
    rfl
  · have hpop : s.popped.stuck := State.popped_stuck.mpr hs
    have hunit : e ≠ .unitTurn := by
      rintro rfl
      simp [deliver, unitStep_stuck hpop] at h
    obtain ⟨hphase, hhcnt, hfh⟩ := deliver_busy_keeps h (State.busy_of_stuck hpop) hunit hreset
    exact ⟨(State.stuck_congr hphase hhcnt).mpr hpop, hfh⟩

/-- Outside the capacity refusal `in_ready` is as R22 says. -/
theorem inReady_iff_of_not_stuck {s : State} (h : ¬ s.stuck) : s.inReady = true ↔ s.phase = .hdr ∨ s.phase = .pay := by
  rw [inReady_iff, and_iff_left h]

/-- Settles O13, from what PARSE starts, what an event can do in a busy phase, and the law of `in_ready`. -/
theorem capacityRefusalIsStuck : Obligations.CapacityRefusalIsStuck := by
  refine ⟨fun s hfree habove => ?parse, fun s hs => ⟨?ready, step_unit_stuck hs⟩, fun s t e rest => step_stuck,
    fun s => inReady_iff_of_not_stuck, fun s hs hcap => ?default⟩
  case parse => exact ⟨_, exec_parse_above_capacity hfree habove, ⟨rfl, Nat.le_refl 9⟩, rfl⟩
  case ready => exact Bool.eq_false_iff.mpr fun h => ((inReady_iff s).mp h).2 hs
  case default => exact inReady_iff_of_not_stuck (hs.not_stuck_of_default_cap hcap)

/-! ### The view of a parser's outcome (R164) -/

/-- An outcome that a parser of a payload of `n` bytes may raise: an error, or a frame whose view lies inside the payload (R10,
R164). -/
def CommandOutcome.Fits (n : Nat) : CommandOutcome → Prop
  | .frame _ fields => fields.contentOff.toNat + fields.contentLen.toNat ≤ n
  | .connErr .. | .streamErr .. | .transport .. => True
  | .header _ | .encoded _ => False

/-- What an outcome that fits says of the result fields it is encoded to (R236). -/
theorem CommandOutcome.Fits.encodeOutcome {n : Nat} {o : CommandOutcome} (h : o.Fits n) (p : Params) :
    let r := encodeOutcome p o
    (r.resKind = .frame ∨ r.resKind = .connError ∨ r.resKind = .streamError ∨ r.resKind = .transport) ∧
      r.frame.contentOff.toNat + r.frame.contentLen.toNat ≤ n := by
  cases o with
  | frame kind fields => exact ⟨.inl rfl, h⟩
  | connErr cls reason observed expected => exact ⟨.inr (.inl rfl), Nat.zero_le n⟩
  | streamErr sid code reason => exact ⟨.inr (.inr (.inl rfl)), Nat.zero_le n⟩
  | transport reason observed expected => exact ⟨.inr (.inr (.inr rfl)), Nat.zero_le n⟩
  | header fh => exact h.elim
  | encoded e => exact h.elim

/-- Cutting an offset and a length to 24 bits can only make the view smaller. -/
theorem view_fits {off len n : Nat} (h : off + len ≤ n) :
    (BitVec.ofNat 24 off).toNat + (BitVec.ofNat 24 len).toNat ≤ n := by
  have hoff := Nat.mod_le off (2 ^ 24)
  have hlen := Nat.mod_le len (2 ^ 24)
  simp only [BitVec.toNat_ofNat]
  omega

/-- A frame outcome without a view, as of the parsers that name no content (R43), fits every payload. -/
theorem fits_of_no_view {n : Nat} {kind : FrameKind} {fields : FrameFields} (hoff : fields.contentOff = 0)
    (hlen : fields.contentLen = 0) : (CommandOutcome.frame kind fields).Fits n := by
  simp [CommandOutcome.Fits, hoff, hlen]

/-- A check in front of an outcome that fits, with an error of its own, fits whichever way it goes. -/
theorem CommandOutcome.Fits.check {n : Nat} {err o : CommandOutcome} {P : Prop} [Decidable P] (herr : err.Fits n)
    (ho : o.Fits n) : (if P then err else o).Fits n := by
  split
  · exact herr
  · exact ho

/-- A cursor over a payload of `n` bytes that has not passed its end (R65). -/
def Cursor.Inside (n : Nat) (c : Cursor) : Prop := c.pos ≤ n ∧ c.stop = n

theorem Cursor.start_inside (n : BitVec 24) : (Cursor.start n).Inside n.toNat := ⟨Nat.zero_le _, rfl⟩

/-- The bytes behind an inside cursor and those before it make up the payload. -/
theorem Cursor.Inside.pos_add_remaining {n : Nat} {c : Cursor} (h : c.Inside n) : c.pos + c.remaining = n := by
  obtain ⟨hpos, hstop⟩ := h
  simp only [Cursor.remaining]
  omega

/-- Advancing over bytes that remain stays inside. -/
theorem Cursor.Inside.advance {n k : Nat} {c : Cursor} (h : c.Inside n) (hk : ¬ c.remaining < k) :
    Cursor.Inside n ⟨c.pos + k, c.stop⟩ := by
  have hsum := h.pos_add_remaining
  exact ⟨by simp only; omega, h.2⟩

/-- What a reader over a payload of `n` bytes may answer: an error that fits, or a value with the cursor still inside. -/
def ReadsInside {α : Type} (n : Nat) (cursorOf : α → Cursor) : Except CommandOutcome α → Prop
  | .error o => o.Fits n
  | .ok x => (cursorOf x).Inside n

section Readers

variable {n : Nat} {c : Cursor} (hc : c.Inside n) (p : Params) (rd : Nat → Byte) (flags : Byte)
include hc

theorem readU32_readsInside : ReadsInside n Prod.snd (readU32 rd c) := by
  by_cases h : c.remaining < 4
  · rw [readU32_short h]; trivial
  · rw [readU32_ok h]; exact hc.advance h

theorem padDecode_readsInside : ReadsInside n PadField.cursor (padDecode p rd flags c) := by
  cases hpad : hasFlag flags p.flags.padded with
  | false => rw [padDecode_unpadded hpad]; exact hc
  | true =>
    by_cases h : c.remaining < 1
    · rw [padDecode_short hpad h]; trivial
    · rw [padDecode_padded hpad h]; exact hc.advance h

theorem prioDecode_readsInside : ReadsInside n PrioField.cursor (prioDecode rd c) := by
  rcases Nat.lt_trichotomy c.remaining 4 with h | h | h
  · rw [prioDecode_short h]; trivial
  · rw [prioDecode_noWeight h]; trivial
  · rw [prioDecode_ok h]; exact hc.advance (Nat.not_lt.mpr h)

theorem headersPrio_readsInside : ReadsInside n PrioField.cursor (headersPrio p rd flags c) := by
  unfold headersPrio
  split
  · exact prioDecode_readsInside hc rd
  · exact hc

end Readers

section Parsers

variable (p : Params) (fh : FrameHeader) (rd : Nat → Byte)

theorem parseData_fits : (parseData p fh rd).Fits fh.length.toNat := by
  unfold parseData
  split
  · trivial
  · have hpad := padDecode_readsInside (Cursor.start_inside fh.length) p rd fh.flags
    split
    · next o ho => rwa [ho] at hpad
    · next pad hok =>
      rw [hok] at hpad
      have hsum := hpad.pos_add_remaining
      split
      · trivial
      · exact view_fits (by omega)

theorem parseHeaders_fits : (parseHeaders p fh rd).Fits fh.length.toNat := by
  unfold parseHeaders
  split
  · trivial
  · have hpad := padDecode_readsInside (Cursor.start_inside fh.length) p rd fh.flags
    split
    · next o ho => rwa [ho] at hpad
    · next pad hok =>
      rw [hok] at hpad
      have hprio := headersPrio_readsInside hpad p rd fh.flags
      split
      · next o ho => rwa [ho] at hprio
      · next prio hok =>
        rw [hok] at hprio
        have hsum := hprio.pos_add_remaining
        dsimp only
        split
        · trivial
        · exact view_fits (by omega)

theorem parsePushPromise_fits : (parsePushPromise p fh rd).Fits fh.length.toNat := by
  unfold parsePushPromise
  split
  · trivial
  · have hpad := padDecode_readsInside (Cursor.start_inside fh.length) p rd fh.flags
    split
    · next o ho => rwa [ho] at hpad
    · next pad hok =>
      rw [hok] at hpad
      have hword := readU32_readsInside hpad rd
      split
      · next o ho => rwa [ho] at hword
      · next v c hok =>
        rw [hok] at hword
        have hsum : c.pos + c.remaining = fh.length.toNat := Cursor.Inside.pos_add_remaining hword
        split
        · trivial
        · exact view_fits (by omega)

theorem parsePriority_fits : (parsePriority p fh rd).Fits fh.length.toNat := by
  have hprio := prioDecode_readsInside (Cursor.start_inside fh.length) rd
  refine .check trivial (.check trivial ?_)
  split
  · next o ho => rwa [ho] at hprio
  · exact fits_of_no_view rfl rfl

/-- Both checks answer an error, so their order (R190) does not matter here. -/
theorem parseRstStream_fits : (parseRstStream p fh rd).Fits fh.length.toNat := by
  have hword := readU32_readsInside (Cursor.start_inside fh.length) rd
  unfold parseRstStream
  cases hw : readU32 rd (Cursor.start fh.length) with
  | error o =>
    have ho : o.Fits fh.length.toNat := by rwa [hw] at hword
    cases p.rstCheckOrder <;> exact .check trivial (.check trivial ho)
  | ok x =>
    cases p.rstCheckOrder <;> exact .check trivial (.check trivial (fits_of_no_view rfl rfl))

theorem parseSettings_fits : (parseSettings p fh rd).Fits fh.length.toNat :=
  .check trivial (fits_of_no_view rfl rfl)

theorem passFrame_fits (kind : FrameKind) : (passFrame kind fh).Fits fh.length.toNat := by
  simp [passFrame, CommandOutcome.Fits]

end Parsers

/-- Every outcome a target can raise fits the frame's payload. -/
theorem ParserOutcome.fits {s : State} {o : CommandOutcome} (h : ParserOutcome s o) : o.Fits s.fh.length.toNat := by
  rcases h with rfl | rfl | rfl | rfl | rfl | rfl | rfl | rfl
  · exact parseData_fits ..
  · exact parseHeaders_fits ..
  · exact parsePriority_fits ..
  · exact parseRstStream_fits ..
  · exact parseSettings_fits ..
  · exact parsePushPromise_fits ..
  · exact passFrame_fits ..
  · exact passFrame_fits ..

/-- Settles O24: a target raises one outcome, each parser's outcome fits the payload, and the encoder keeps the view. -/
theorem viewLiesInsideTheFrame : Obligations.ViewLiesInsideTheFrame := by
  intro s t u i hi ht
  obtain ⟨o, hexec, ho⟩ := exec_target hi
  rw [hexec, Host.Outcome.next.injEq] at ht
  subst ht
  exact ⟨State.finish_phase s o, ho.fits.encodeOutcome s.params⟩

end Sys2Proof.Machine

/-! PROOFS (state). What a step can do to each field of the state (10_state.md). -/

namespace Sys2Proof.Machine

/-! ### Register writes -/

theorem State.writeHeader_free {s : State} (h : s.phase.busy = false) (fh : FrameHeader) :
    s.writeHeader fh = { s with fh := fh } := if_neg (by rw [h]; decide)

theorem State.writeHeader_busy {s : State} (h : s.phase.busy = true) (fh : FrameHeader) : s.writeHeader fh = s := if_pos h

/-- A write to an FH register lands in IDLE and DONE only (R45). -/
theorem State.writeHeader_cases (s : State) (fh : FrameHeader) :
    (s.phase.busy = false ∧ s.writeHeader fh = { s with fh := fh }) ∨ s.writeHeader fh = s := by
  cases h : s.phase.busy with
  | true => exact .inr (State.writeHeader_busy h fh)
  | false => exact .inl ⟨rfl, State.writeHeader_free h fh⟩

/-- Everything a write to a register other than CTRL can do (R45, R46). -/
theorem State.regWrite_cases (s : State) (r : Reg) (v : Word) :
    (s.phase.busy = false ∧ ∃ fh, s.regWrite r v = { s with fh := fh }) ∨
      (r = .sqId ∧ s.regWrite r v = { s with sqId := v.setWidth 16 }) ∨ s.regWrite r v = s := by
  have header : ∀ fh, (s.phase.busy = false ∧ ∃ fh', s.writeHeader fh = { s with fh := fh' }) ∨
      (r = .sqId ∧ s.writeHeader fh = { s with sqId := v.setWidth 16 }) ∨ s.writeHeader fh = s := fun fh =>
    (s.writeHeader_cases fh).imp (fun h => ⟨h.1, fh, h.2⟩) .inr
  cases r with
  | fhLen => exact header _
  | fhTf => exact header _
  | fhSid => exact header _
  | sqId => exact .inr (.inl ⟨rfl, rfl⟩)
  | _ => exact .inr (.inr rfl)

/-- A write to a register other than CTRL changes an FH register or SQ_ID at most. -/
theorem State.regWrite_frame (s : State) (r : Reg) (v : Word) : ∃ fh q, s.regWrite r v = { s with fh := fh, sqId := q } := by
  rcases s.regWrite_cases r v with ⟨-, fh, h⟩ | ⟨-, h⟩ | h
  · exact ⟨fh, _, h⟩
  · exact ⟨_, _, h⟩
  · exact ⟨_, _, h⟩

/-! ### The unit's turn -/

/-- Everything that the ninth header byte can do (R138). -/
theorem headerComplete_cases (s : State) :
    let q := { s with fh := decodeHeader s.hdrBuf }
    (s.curCmd = 2 ∧ headerComplete s = q.finish (.header q.fh)) ∨
      (s.curCmd ≠ 2 ∧ s.params.payloadCap.toNat < q.fh.length.toNat ∧ headerComplete s = q) ∨
      (s.curCmd ≠ 2 ∧ q.fh.length.toNat ≤ s.params.payloadCap.toNat ∧ q.fh.length = 0 ∧
        headerComplete s = { q with phase := .exec }) ∨
      (s.curCmd ≠ 2 ∧ q.fh.length.toNat ≤ s.params.payloadCap.toNat ∧ q.fh.length ≠ 0 ∧
        headerComplete s = { q with phase := .pay, pcnt := 0 }) := by
  unfold headerComplete
  dsimp only
  by_cases h2 : s.curCmd = 2
  · exact .inl ⟨h2, if_pos h2⟩
  · rw [if_neg h2]
    by_cases hcap : s.params.payloadCap.toNat < (decodeHeader s.hdrBuf).length.toNat
    · exact .inr (.inl ⟨h2, hcap, if_pos hcap⟩)
    · rw [if_neg hcap]
      by_cases h0 : (decodeHeader s.hdrBuf).length = 0
      · exact .inr (.inr (.inl ⟨h2, Nat.not_lt.mp hcap, h0, if_pos h0⟩))
      · exact .inr (.inr (.inr ⟨h2, Nat.not_lt.mp hcap, h0, if_neg h0⟩))

/-- A payload byte is stored at PCNT, and with the last one the EXEC step is due (R140). -/
theorem payloadByteIn_eq (b : Byte) (s : State) :
    payloadByteIn b s = { s.writePayload s.pcnt.toNat b with
      pcnt := s.pcnt + 1, phase := if s.pcnt + 1 = s.fh.length then .exec else s.phase } := by
  by_cases h : s.pcnt + 1 = s.fh.length
  · rw [payloadByteIn_last h, if_pos h]; rfl
  · rw [payloadByteIn_more h, if_neg h]; rfl

/-- The unit never enters HDR: only a command does. -/
theorem unitStep_phase_ne_hdr {s t : State} (h : unitStep s = .next t) (hp : s.phase ≠ .hdr) : t.phase ≠ .hdr := by
  rcases unitStep_cases h with rfl | ⟨hhdr, -⟩ | ⟨hpay, ⟨b, rest, -, rfl⟩ | ⟨-, -, rfl⟩⟩ | ⟨-, o, rfl, -⟩
  · exact hp
  · exact absurd hhdr hp
  · rw [payloadByteIn_eq]
    dsimp only
    split
    · decide
    · exact hp
  · exact Phase.noConfusion
  · exact Phase.noConfusion

/-! ### What the unit's turn, a command and any other event leave alone -/

theorem headerComplete_frame (s : State) :
    let t := headerComplete s
    t = { s with phase := t.phase, pcnt := t.pcnt, fh := t.fh, res := t.res } := by
  rcases headerComplete_cases s with ⟨-, h⟩ | ⟨-, -, h⟩ | ⟨-, -, -, h⟩ | ⟨-, -, -, h⟩
  · rw [h]; rfl
  · rw [h]
  · rw [h]
  · rw [h]

theorem headerByte_frame (b : Byte) (s : State) :
    let t := headerByte b s
    t = { s with phase := t.phase, hdrBuf := t.hdrBuf, hcnt := t.hcnt, pcnt := t.pcnt, fh := t.fh, res := t.res } := by
  by_cases hlast : s.hcnt + 1 = 9
  · rw [headerByte_last hlast, headerComplete_frame]
  · rw [headerByte_take hlast]

/-- The unit's turn writes neither the parameters, CUR_CMD, ENC, SQ_ID nor CMD_REJECTED, nor what belongs to the host. -/
theorem unitStep_frame {s t : State} (h : unitStep s = .next t) :
    t = { s with
      phase := t.phase, hdrBuf := t.hdrBuf, hcnt := t.hcnt, pcnt := t.pcnt, fh := t.fh, payload := t.payload, res := t.res,
      source := t.source } := by
  rcases unitStep_cases h with rfl | ⟨-, -, ⟨b, rest, -, rfl⟩ | ⟨-, -, rfl⟩⟩ | ⟨-, ⟨b, rest, -, rfl⟩ | ⟨-, -, rfl⟩⟩ |
    ⟨-, o, rfl, -⟩
  · rfl
  · rw [headerByte_frame]
  · rfl
  · rw [payloadByteIn_eq]; rfl
  · rfl
  · rfl

/-- No command writes an FH register, PAYLOAD, SQ_ID, HDR_BUF or the parameters. -/
theorem CtrlResult.frame {s t : State} {op : Nat} (hc : CtrlResult s op t) :
    t = { s with
      phase := t.phase, curCmd := t.curCmd, hcnt := t.hcnt, pcnt := t.pcnt, enc := t.enc, res := t.res,
      cmdRejected := t.cmdRejected } := by
  rcases hc with ⟨-, rfl⟩ | rfl | ⟨-, ⟨-, rfl⟩ | ⟨-, rfl⟩ | ⟨-, rfl⟩ | ⟨-, rfl⟩⟩
  · rfl
  · rfl
  · rfl
  · rfl
  · rcases startParse_cases (s.accept 3) with h | h
    · rw [h]; rfl
    · rw [h]; rfl
  · rfl

/-- An event that is no CTRL write, no reset and not the unit's turn writes PAYLOAD, the FH registers and SQ_ID at most, beside
what belongs to the source and the host. -/
theorem deliver_frame {s t : State} {e : Event} (h : deliver e s = .next t) (hunit : e ≠ .unitTurn) :
    t = { s with payload := t.payload, fh := t.fh, sqId := t.sqId, source := t.source, hostReads := t.hostReads } ∨
      (e = .reset ∧ t = s.resetPulse) ∨ (∃ v, e = .regWrite 0 v ∧ CtrlResult s (v.toNat % 8) t) := by
  rcases deliver_cases h hunit with rfl | ⟨r, rfl⟩ | ⟨a, v, -, -, -, rfl⟩ | ⟨x, rfl⟩ | hreset | ⟨off, v, r, -, -, -, rfl⟩ | hctrl
  · exact .inl rfl
  · exact .inl rfl
  · exact .inl rfl
  · exact .inl rfl
  · exact .inr (.inl hreset)
  · obtain ⟨fh, q, hq⟩ := s.regWrite_frame r v
    exact .inl (by rw [hq])
  · exact .inr (.inr hctrl)

/-- A step that answers a next state is the unit's turn, or the delivery of another event. -/
theorem step_next_cases {s t : State} (h : step s = .next t) :
    (s.unitMoves = true ∧ unitStep s.popped = .next t) ∨
      (∃ e rest, s.inputs = e :: rest ∧ e ≠ .unitTurn ∧ deliver e s.popped = .next t) := by
  rcases step_cases s with ⟨hu, hs⟩ | ⟨e, rest, hin, hunit, hs⟩
  · exact .inl ⟨hu, hs ▸ h⟩
  · exact .inr ⟨e, rest, hin, hunit, hs ▸ h⟩

end Sys2Proof.Machine

/-! PROOFS (state). HDR_BUF is unobservable (O53). -/

namespace Sys2Proof.Machine

/-! ### Nine-byte buffers -/

theorem getByte9_beyond (h : Bytes9) {i : Nat} (hi : 9 ≤ i) : getByte9 h i = 0 := by
  obtain ⟨k, rfl⟩ := Nat.exists_eq_add_of_le' hi
  rfl

theorem getByte9_setByte9 {i : Nat} (hi : i < 9) (h : Bytes9) (v : Byte) (j : Nat) :
    getByte9 (setByte9 h i v) j = if j = i then v else getByte9 h j := by
  by_cases hj : j < 9
  · interval_cases i <;> interval_cases j <;> rfl
  · rw [if_neg (by omega), getByte9_beyond _ (by omega), getByte9_beyond _ (by omega)]

theorem sameUpTo_refl (k : Nat) (h : Bytes9) : sameUpTo k h h := fun _ _ => rfl

theorem sameUpTo_zero (h h' : Bytes9) : sameUpTo 0 h h' := fun _ hi => absurd hi (Nat.not_lt_zero _)

/-- Buffers that agree on the first `k` bytes agree on one more once the same byte is put there (R136). -/
theorem sameUpTo.setByte9 {k : Nat} {h h' : Bytes9} (hk : k < 9) (hs : sameUpTo k h h') (v : Byte) :
    sameUpTo (k + 1) (setByte9 h k v) (setByte9 h' k v) := by
  intro i hi
  rw [getByte9_setByte9 hk, getByte9_setByte9 hk]
  split
  · rfl
  · exact hs i (by omega)

/-- Nine bytes are the whole buffer. -/
theorem sameUpTo.eq_of_nine {h h' : Bytes9} (hs : sameUpTo 9 h h') : h = h' := by
  obtain ⟨b0, b1, b2, b3, b4, b5, b6, b7, b8⟩ := h
  obtain ⟨c0, c1, c2, c3, c4, c5, c6, c7, c8⟩ := h'
  simp only [Bytes9.mk.injEq]
  exact ⟨hs 0 (by decide), hs 1 (by decide), hs 2 (by decide), hs 3 (by decide), hs 4 (by decide), hs 5 (by decide),
    hs 6 (by decide), hs 7 (by decide), hs 8 (by decide)⟩

/-! ### Operations that do not look at HDR_BUF -/

/-- The same state with other header bytes. -/
def State.withHdr (s : State) (h : Bytes9) : State := { s with hdrBuf := h }

/-- An outcome of a step with its next state, if there is one, changed by `f`. -/
def mapNext (f : State → State) : Host.Outcome State Fault Refusal → Host.Outcome State Fault Refusal
  | .next s => .next (f s)
  | .fault r => .fault r
  | .refused r => .refused r

section WithHdr

variable (s : State) (h : Bytes9)

theorem State.command_withHdr {op : BitVec 3} {start : State → State}
    (hstart : ∀ q : State, start (q.withHdr h) = (start q).withHdr h) :
    (s.withHdr h).command op start = (s.command op start).withHdr h := by
  cases hb : s.phase.busy with
  | true => rw [State.command_busy hb]; exact State.command_busy hb
  | false => rw [State.command_free hb, ← hstart]; exact State.command_free hb

theorem startParse_withHdr : startParse (s.withHdr h) = (startParse s).withHdr h := by
  unfold startParse
  rw [apply_ite (State.withHdr · h)]
  rfl

/-- No instruction looks at HDR_BUF or writes it. -/
theorem exec_withHdr (i : Instr) : exec i (s.withHdr h) = mapNext (·.withHdr h) (exec i s) := by
  have command : ∀ {op : BitVec 3} {start : State → State}, (∀ q : State, start (q.withHdr h) = (start q).withHdr h) →
      Host.Outcome.next ((s.withHdr h).command op start) =
        mapNext (·.withHdr h) (.next (s.command op start)) := fun hstart =>
    congrArg Host.Outcome.next (State.command_withHdr s h hstart)
  cases i with
  | readFrame => exact command fun _ => rfl
  | decodeHeader => exact command fun _ => rfl
  | parse => exact command fun q => startParse_withHdr q h
  | encodeHeader => exact command fun _ => rfl
  | _ => rfl

theorem State.writeHeader_withHdr (fh : FrameHeader) : (s.withHdr h).writeHeader fh = (s.writeHeader fh).withHdr h := by
  unfold State.writeHeader
  rw [apply_ite (State.withHdr · h)]
  rfl

theorem State.regWrite_withHdr (r : Reg) (v : Word) : (s.withHdr h).regWrite r v = (s.regWrite r v).withHdr h := by
  cases r with
  | fhLen => exact State.writeHeader_withHdr ..
  | fhTf => exact State.writeHeader_withHdr ..
  | fhSid => exact State.writeHeader_withHdr ..
  | _ => rfl

theorem hostRegWrite_withHdr (off : Nat) (v : Word) :
    hostRegWrite off v (s.withHdr h) = mapNext (·.withHdr h) (hostRegWrite off v s) := by
  unfold hostRegWrite
  split
  · rfl
  · split
    · exact exec_withHdr ..
    · exact congrArg Host.Outcome.next (State.regWrite_withHdr ..)
    · rfl

theorem hostPayloadWrite_withHdr (a : Nat) (v : Byte) :
    hostPayloadWrite a v (s.withHdr h) = mapNext (·.withHdr h) (hostPayloadWrite a v s) := by
  unfold hostPayloadWrite
  rw [apply_ite (mapNext _), apply_ite (mapNext _)]
  rfl

theorem hostRegRead_withHdr (off : Nat) :
    hostRegRead off (s.withHdr h) = mapNext (·.withHdr h) (hostRegRead off s) := by
  unfold hostRegRead
  rw [apply_ite (mapNext _)]
  rfl

theorem hostPayloadRead_withHdr (a : Nat) :
    hostPayloadRead a (s.withHdr h) = mapNext (·.withHdr h) (hostPayloadRead a s) := by
  unfold hostPayloadRead
  rw [apply_ite (mapNext _)]
  rfl

/-- No event but the unit's turn and reset looks at HDR_BUF or writes it. -/
theorem deliver_withHdr {e : Event} (hunit : e ≠ .unitTurn) (hreset : e ≠ .reset) :
    deliver e (s.withHdr h) = mapNext (·.withHdr h) (deliver e s) := by
  cases e with
  | regWrite off v => exact hostRegWrite_withHdr ..
  | regRead off => exact hostRegRead_withHdr ..
  | payloadWrite a v => exact hostPayloadWrite_withHdr ..
  | payloadRead a => exact hostPayloadRead_withHdr ..
  | offer b => rfl
  | setEoi v => rfl
  | reset => exact absurd rfl hreset
  | unitTurn => exact absurd rfl hunit

end WithHdr

/-! ### How many header bytes a later step may read -/

theorem State.hdrLive_of_phase {s : State} (h : s.phase ≠ .hdr) : s.hdrLive = 0 := if_neg fun hl => h hl.1

theorem State.hdrLive_le_hcnt (s : State) : s.hdrLive ≤ s.hcnt.toNat := by
  unfold State.hdrLive
  split
  · exact Nat.le_refl _
  · exact Nat.zero_le _

theorem State.hdrLive_collecting {s : State} (hp : s.phase = .hdr) (hc : s.hcnt.toNat < 9) : s.hdrLive = s.hcnt.toNat :=
  if_pos ⟨hp, hc⟩


theorem sameUpTo.mono {k m : Nat} {h h' : Bytes9} (hk : k ≤ m) (hs : sameUpTo m h h') : sameUpTo k h h' :=
  fun i hi => hs i (Nat.lt_of_lt_of_le hi hk)

/-- An accepted command leaves no header byte to be read: HCNT is 0, or 9, or PHASE is not HDR. -/
theorem CtrlResult.hdr {s t : State} {op : Nat} (hc : CtrlResult s op t) :
    t.hdrBuf = s.hdrBuf ∧ t.hdrLive ≤ s.hdrLive := by
  rcases hc with ⟨-, rfl⟩ | rfl | ⟨-, ⟨-, rfl⟩ | ⟨-, rfl⟩ | ⟨-, rfl⟩ | ⟨-, rfl⟩⟩
  · exact ⟨rfl, Nat.le_refl _⟩
  · exact ⟨rfl, Nat.le_refl _⟩
  · exact ⟨rfl, Nat.zero_le _⟩
  · exact ⟨rfl, Nat.zero_le _⟩
  · rcases startParse_cases (s.accept 3) with h | h
    · rw [h]; exact ⟨rfl, Nat.zero_le _⟩
    · rw [h]; exact ⟨rfl, Nat.zero_le _⟩
  · exact ⟨rfl, Nat.zero_le _⟩

/-- An event but the unit's turn and reset keeps HDR_BUF and asks for no more of it. -/
theorem deliver_hdr {s t : State} {e : Event} (h : deliver e s = .next t) (hunit : e ≠ .unitTurn) (hreset : e ≠ .reset) :
    t.hdrBuf = s.hdrBuf ∧ t.hdrLive ≤ s.hdrLive := by
  rcases deliver_cases h hunit with rfl | ⟨r, rfl⟩ | ⟨a, v, -, -, -, rfl⟩ | ⟨x, rfl⟩ | ⟨he, -⟩ | ⟨off, v, r, -, -, -, rfl⟩ |
    ⟨v, -, hc⟩
  · exact ⟨rfl, Nat.le_refl _⟩
  · exact ⟨rfl, Nat.le_refl _⟩
  · exact ⟨rfl, Nat.le_refl _⟩
  · exact ⟨rfl, Nat.le_refl _⟩
  · exact absurd he hreset
  · obtain ⟨fh, q, hq⟩ := s.regWrite_frame r v
    rw [hq]; exact ⟨rfl, Nat.le_refl _⟩
  · exact hc.hdr

/-! ### Steps from states that differ in HDR_BUF -/

/-- Two outcomes of a step that stop alike, or answer states that differ only in header bytes not yet collected. -/
def AlikeButHdr (o o' : Host.Outcome State Fault Refusal) : Prop :=
  match o, o' with
  | .next t, .next t' => t' = { t with hdrBuf := t'.hdrBuf } ∧ sameUpTo t.hdrLive t.hdrBuf t'.hdrBuf
  | .fault r, .fault r' => r = r'
  | .refused r, .refused r' => r = r'
  | _, _ => False

theorem alikeButHdr_refl (o : Host.Outcome State Fault Refusal) : AlikeButHdr o o := by
  cases o with
  | next t => exact ⟨rfl, sameUpTo_refl _ _⟩
  | fault r => rfl
  | refused r => rfl

/-- What does not look at HDR_BUF, and leaves of it to be read only bytes that agree, acts alike. -/
theorem alikeButHdr_mapNext {o : Host.Outcome State Fault Refusal} {h : Bytes9}
    (hs : ∀ t, o = .next t → sameUpTo t.hdrLive t.hdrBuf h) : AlikeButHdr o (mapNext (·.withHdr h) o) := by
  cases o with
  | next t => exact ⟨rfl, hs t rfl⟩
  | fault r => rfl
  | refused r => rfl

section Alike

variable {s : State} {h : Bytes9} (hs : sameUpTo s.hdrLive s.hdrBuf h)
include hs

theorem deliver_alikeButHdr {e : Event} (hunit : e ≠ .unitTurn) :
    AlikeButHdr (deliver e s) (deliver e (s.withHdr h)) := by
  by_cases hreset : e = .reset
  · subst hreset
    exact alikeButHdr_refl _
  · rw [deliver_withHdr s h hunit hreset]
    refine alikeButHdr_mapNext fun t ht => ?_
    obtain ⟨hbuf, hlive⟩ := deliver_hdr ht hunit hreset
    rw [hbuf]
    exact hs.mono hlive

/-- The header byte step: the collected bytes grow by the same byte, and with the ninth the buffers are equal. -/
theorem headerByte_alikeButHdr (hp : s.phase = .hdr) (hc : s.hcnt.toNat < 9) (b : Byte) :
    AlikeButHdr (.next (headerByte b s)) (.next (headerByte b (s.withHdr h))) := by
  rw [State.hdrLive_collecting hp hc] at hs
  have hset := hs.setByte9 hc b
  by_cases hlast : s.hcnt + 1 = 9
  · have hnine : s.hcnt.toNat + 1 = 9 := by bv_omega
    rw [hnine] at hset
    have hsame : headerByte b (s.withHdr h) = headerByte b s := by
      rw [headerByte_last hlast, headerByte_last (s := s.withHdr h) hlast]
      simp only [State.withHdr, hset.eq_of_nine]
    rw [hsame]
    exact alikeButHdr_refl _
  · have hmore : (s.hcnt + 1).toNat = s.hcnt.toNat + 1 := by bv_omega
    rw [headerByte_take hlast, headerByte_take (s := s.withHdr h) hlast]
    exact ⟨rfl, hset.mono (hmore ▸ State.hdrLive_le_hcnt _)⟩

theorem unitStep_hdr_alikeButHdr (hp : s.phase = .hdr) (hc : s.hcnt.toNat < 9) :
    AlikeButHdr (unitStep s) (unitStep (s.withHdr h)) := by
  rw [unitStep_hdr hp hc, unitStep_hdr (s := s.withHdr h) hp hc]
  cases hb : s.source.bytes with
  | cons b rest =>
    rw [portTurn_take hb, portTurn_take (s := s.withHdr h) hb]
    exact headerByte_alikeButHdr (s := { s with source := ⟨rest, s.source.eoi⟩ }) hs hp hc b
  | nil =>
    cases he : s.source.eoi with
    | true =>
      rw [portTurn_end hb he, portTurn_end (s := s.withHdr h) hb he]
      exact ⟨rfl, sameUpTo_zero _ _⟩
    | false =>
      rw [portTurn_wait hb he, portTurn_wait (s := s.withHdr h) hb he]
      exact ⟨rfl, hs⟩

omit hs in
theorem portTurn_pay_withHdr :
    portTurn payloadByteIn payloadShort (s.withHdr h) = (portTurn payloadByteIn payloadShort s).withHdr h := by
  cases hb : s.source.bytes with
  | cons b rest =>
    rw [portTurn_take hb, portTurn_take (s := s.withHdr h) hb]
    rw [payloadByteIn_eq, payloadByteIn_eq]
    rfl
  | nil =>
    cases he : s.source.eoi with
    | true => rw [portTurn_end hb he, portTurn_end (s := s.withHdr h) hb he]; rfl
    | false => rw [portTurn_wait hb he, portTurn_wait (s := s.withHdr h) hb he]

omit hs in
theorem unitStep_withHdr (hp : s.phase ≠ .hdr) : unitStep (s.withHdr h) = mapNext (·.withHdr h) (unitStep s) := by
  cases hq : s.phase with
  | hdr => exact absurd hq hp
  | idle => rw [unitStep_rest (.inl hq), unitStep_rest (s := s.withHdr h) (.inl hq)]; rfl
  | done => rw [unitStep_rest (.inr hq), unitStep_rest (s := s.withHdr h) (.inr hq)]; rfl
  | exec => rw [unitStep_exec hq, unitStep_exec (s := s.withHdr h) hq]; exact exec_withHdr ..
  | pay =>
    rw [unitStep_pay hq, unitStep_pay (s := s.withHdr h) hq]
    exact congrArg Host.Outcome.next portTurn_pay_withHdr

theorem unitStep_alikeButHdr : AlikeButHdr (unitStep s) (unitStep (s.withHdr h)) := by
  by_cases hp : s.phase = .hdr
  · by_cases hc : s.hcnt.toNat < 9
    · exact unitStep_hdr_alikeButHdr hs hp hc
    · rw [unitStep_stuck ⟨hp, Nat.not_lt.mp hc⟩, unitStep_stuck (s := s.withHdr h) ⟨hp, Nat.not_lt.mp hc⟩]
      exact alikeButHdr_refl _
  · rw [unitStep_withHdr hp]
    refine alikeButHdr_mapNext fun t ht => ?_
    rw [State.hdrLive_of_phase (unitStep_phase_ne_hdr ht hp)]
    exact sameUpTo_zero _ _

theorem step_alikeButHdr : AlikeButHdr (step s) (step (s.withHdr h)) := by
  rcases step_cases s with ⟨hu, -⟩ | ⟨e, rest, hin, hunit, -⟩
  · rw [step_unit hu, step_unit (s := s.withHdr h) hu]
    exact unitStep_alikeButHdr (s := s.popped) hs
  · rw [step_cons hin, step_cons (s := s.withHdr h) hin]
    exact deliver_alikeButHdr (s := s.popped) hs hunit

end Alike

/-- Settles O53: the header byte step keeps the collected bytes equal, and no other step looks at HDR_BUF. -/
theorem hdrBufIsUnobservable : Obligations.HdrBufIsUnobservable := fun _ _ hs => step_alikeButHdr hs

end Sys2Proof.Machine

/-! PROOFS (state). Every step keeps the invariant (O55). -/

namespace Sys2Proof.Machine

/-! ### Outcomes whose result fields are sound -/

/-- An outcome that names what an outcome of its class has to name (R31, R235, R240): a frame its kind, an error its reason, a
protocol error no sizes, and a stream error its stream. -/
def CommandOutcome.Regular (p : Params) : CommandOutcome → Prop
  | .header _ | .encoded _ => True
  | .frame kind _ => kind ≠ .none
  | .connErr cls reason observed expected => reason ≠ .none ∧ (cls = .protocol → observed = 0 ∧ expected = 0)
  | .streamErr sid code reason => code = p.errProtocol ∧ sid ≠ 0 ∧ reason = .headersEmpty
  | .transport reason _ _ => reason ≠ .none

theorem ResultFields.sound_empty (p : Params) : ({} : ResultFields).Sound p := by
  constructor <;> simp

theorem CommandOutcome.Regular.sound {p : Params} {o : CommandOutcome} (h : o.Regular p)
    (hview : (encodeOutcome p o).frame.contentOff.toNat + (encodeOutcome p o).frame.contentLen.toNat ≤ p.payloadCap.toNat) :
    (encodeOutcome p o).Sound p := by
  cases o with
  | header fh => constructor <;> simp [encodeOutcome]
  | encoded e => constructor <;> simp [encodeOutcome]
  | frame kind fields => constructor <;> simp_all [encodeOutcome, CommandOutcome.Regular]
  | streamErr sid code reason => constructor <;> simp_all [encodeOutcome, CommandOutcome.Regular]
  | transport reason observed expected => constructor <;> simp_all [encodeOutcome, CommandOutcome.Regular]
  | connErr cls reason observed expected =>
    cases cls <;> constructor <;> simp_all [encodeOutcome, CommandOutcome.Regular, ConnClass.code]

theorem encodeOutcome_resKind_ne_none (p : Params) (o : CommandOutcome) : (encodeOutcome p o).resKind ≠ .none := by
  cases o <;> exact ResKind.noConfusion

/-! ### Every parser's outcome is regular -/

section Regular

variable {p : Params}

theorem CommandOutcome.Regular.check {err o : CommandOutcome} {P : Prop} [Decidable P] (herr : err.Regular p)
    (ho : ¬ P → o.Regular p) : (if P then err else o).Regular p := by
  split
  · exact herr
  · next h => exact ho h

theorem streamIdZero_regular : streamIdZero.Regular p := ⟨Reason.noConfusion, fun _ => ⟨rfl, rfl⟩⟩

theorem padTooLong_regular : padTooLong.Regular p := ⟨Reason.noConfusion, fun _ => ⟨rfl, rfl⟩⟩

theorem frameSize_regular {reason : Reason} (h : reason ≠ .none) (observed expected : Nat) :
    (CommandOutcome.connErr .frameSize reason observed expected).Regular p := ⟨h, ConnClass.noConfusion⟩

variable {rd : Nat → Byte} {c : Cursor} {flags : Byte} {o : CommandOutcome}

theorem readByte_error_regular (h : readByte rd c = .error o) : o.Regular p := by
  unfold readByte at h
  split at h
  · cases h; exact Reason.noConfusion
  · cases h

theorem readU32_error_regular (h : readU32 rd c = .error o) : o.Regular p := by
  unfold readU32 at h
  split at h
  · cases h; exact Reason.noConfusion
  · cases h

theorem padDecode_error_regular (h : padDecode p rd flags c = .error o) : o.Regular p := by
  unfold padDecode at h
  split at h
  · split at h
    · next ho => cases h; exact readByte_error_regular ho
    · cases h
  · cases h

theorem prioDecode_error_regular (h : prioDecode rd c = .error o) : o.Regular p := by
  unfold prioDecode at h
  split at h
  · next ho => cases h; exact readU32_error_regular ho
  · split at h
    · next ho => cases h; exact readByte_error_regular ho
    · cases h

theorem headersPrio_error_regular (h : headersPrio p rd flags c = .error o) : o.Regular p := by
  unfold headersPrio at h
  split at h
  · exact prioDecode_error_regular h
  · cases h

variable (p rd) (fh : FrameHeader)

theorem parseData_regular : (parseData p fh rd).Regular p := by
  refine .check streamIdZero_regular fun _ => ?_
  split
  · next o ho => exact padDecode_error_regular ho
  · exact .check padTooLong_regular fun _ => FrameKind.noConfusion

theorem parseHeaders_regular : (parseHeaders p fh rd).Regular p := by
  refine .check streamIdZero_regular fun hsid => ?_
  split
  · next o ho => exact padDecode_error_regular ho
  · split
    · next o ho => exact headersPrio_error_regular ho
    · exact .check ⟨rfl, hsid, rfl⟩ fun _ => FrameKind.noConfusion

theorem parsePriority_regular : (parsePriority p fh rd).Regular p := by
  refine .check streamIdZero_regular fun _ => .check (frameSize_regular Reason.noConfusion _ _) fun _ => ?_
  split
  · next o ho => exact prioDecode_error_regular ho
  · exact FrameKind.noConfusion

theorem parseRstStream_regular : (parseRstStream p fh rd).Regular p := by
  have hsize : (CommandOutcome.connErr .frameSize .rstSize fh.length.toNat 4).Regular p :=
    frameSize_regular Reason.noConfusion _ _
  unfold parseRstStream
  cases hw : readU32 rd (Cursor.start fh.length) with
  | error o =>
    have ho : o.Regular p := readU32_error_regular hw
    cases p.rstCheckOrder with
    | sizeFirst => exact .check hsize fun _ => .check streamIdZero_regular fun _ => ho
    | idFirst => exact .check streamIdZero_regular fun _ => .check hsize fun _ => ho
  | ok x =>
    cases p.rstCheckOrder with
    | sizeFirst => exact .check hsize fun _ => .check streamIdZero_regular fun _ => FrameKind.noConfusion
    | idFirst => exact .check streamIdZero_regular fun _ => .check hsize fun _ => FrameKind.noConfusion

theorem parseSettings_regular : (parseSettings p fh rd).Regular p :=
  .check (frameSize_regular Reason.noConfusion _ _) fun _ => FrameKind.noConfusion

theorem parsePushPromise_regular : (parsePushPromise p fh rd).Regular p := by
  refine .check streamIdZero_regular fun _ => ?_
  split
  · next o ho => exact padDecode_error_regular ho
  · split
    · next o ho => exact readU32_error_regular ho
    · exact .check padTooLong_regular fun _ => FrameKind.noConfusion

end Regular

theorem ParserOutcome.regular {s : State} {o : CommandOutcome} (h : ParserOutcome s o) : o.Regular s.params := by
  rcases h with rfl | rfl | rfl | rfl | rfl | rfl | rfl | rfl
  · exact parseData_regular ..
  · exact parseHeaders_regular ..
  · exact parsePriority_regular ..
  · exact parseRstStream_regular ..
  · exact parseSettings_regular ..
  · exact parsePushPromise_regular ..
  · exact FrameKind.noConfusion
  · exact FrameKind.noConfusion

/-! ### What the invariant asks in each phase -/

/-- PAYLOAD is in canonical form and inside its capacity. -/
def State.PayloadSound (s : State) : Prop := Memory.wf s.payload ∧ ∀ c ∈ s.payload, c.1 < s.params.payloadCap.toNat

theorem State.Inv.payloadSound {s : State} (hs : s.Inv) : s.PayloadSound := ⟨hs.payloadForm, hs.payloadCap⟩

section Phases

variable {t : State} (hmem : t.PayloadSound)
include hmem

theorem inv_of_idle (hp : t.phase = .idle) (hres : t.res = {}) (hc : t.hcnt.toNat ≤ 9) (hcmd : t.curCmd = 0) : t.Inv := by
  refine ⟨hmem.1, hmem.2, hc, ?_, ?_, ?_, fun _ => hcmd, ?_, ?_, ?_, ?_, fun _ => hres, ?_,
    hres ▸ ResultFields.sound_empty _⟩ <;> simp [hp]

theorem inv_of_hdr (hp : t.phase = .hdr) (hres : t.res = {}) (hc : t.hcnt.toNat < 9) (hcmd : t.curCmd = 1 ∨ t.curCmd = 2) :
    t.Inv := by
  have hnine : t.hcnt.toNat ≠ 9 := Nat.ne_of_lt hc
  refine ⟨hmem.1, hmem.2, Nat.le_of_lt hc, fun _ h => absurd h hnine, ?_, ?_, ?_, fun _ _ => hcmd, fun _ h => absurd h hnine,
    ?_, ?_, fun _ => hres, ?_, hres ▸ ResultFields.sound_empty _⟩ <;> simp [hp]

theorem inv_of_refusal (hp : t.phase = .hdr) (hres : t.res = {}) (hc : t.hcnt.toNat = 9)
    (habove : t.params.payloadCap.toNat < t.fh.length.toNat) (hcmd : t.curCmd = 1 ∨ t.curCmd = 3) : t.Inv := by
  refine ⟨hmem.1, hmem.2, Nat.le_of_eq hc, fun _ _ => habove, ?_, ?_, ?_, fun _ h => absurd hc (Nat.ne_of_lt h),
    fun _ _ => hcmd, ?_, ?_, fun _ => hres, ?_, hres ▸ ResultFields.sound_empty _⟩ <;> simp [hp]

theorem inv_of_pay (hp : t.phase = .pay) (hres : t.res = {}) (hc : t.hcnt.toNat ≤ 9)
    (hmore : t.pcnt.toNat < t.fh.length.toNat) (hfits : t.fh.length.toNat ≤ t.params.payloadCap.toNat)
    (hcmd : t.curCmd = 1) : t.Inv := by
  refine ⟨hmem.1, hmem.2, hc, ?_, fun _ => ⟨hmore, hfits⟩, ?_, ?_, ?_, ?_, fun _ => hcmd, ?_, fun _ => hres, ?_,
    hres ▸ ResultFields.sound_empty _⟩ <;> simp [hp]

theorem inv_of_exec (hp : t.phase = .exec) (hres : t.res = {}) (hc : t.hcnt.toNat ≤ 9)
    (hfits : t.fh.length.toNat ≤ t.params.payloadCap.toNat) (hcmd : t.curCmd = 1 ∨ t.curCmd = 3) : t.Inv := by
  refine ⟨hmem.1, hmem.2, hc, ?_, ?_, fun _ => hfits, ?_, ?_, ?_, ?_, fun _ => hcmd, fun _ => hres, ?_,
    hres ▸ ResultFields.sound_empty _⟩ <;> simp [hp]

theorem inv_of_done (hp : t.phase = .done) (hc : t.hcnt.toNat ≤ 9) (hout : t.res.resKind ≠ .none)
    (hsound : t.res.Sound t.params) : t.Inv := by
  refine ⟨hmem.1, hmem.2, hc, ?_, ?_, ?_, ?_, ?_, ?_, ?_, ?_, ?_, fun _ => hout, hsound⟩ <;> simp [hp]

end Phases

/-- Raising a regular outcome whose view lies inside the buffer (R238). -/
theorem State.PayloadSound.inv_finish {s : State} (hmem : s.PayloadSound) (hc : s.hcnt.toNat ≤ 9) {o : CommandOutcome}
    (ho : o.Regular s.params)
    (hview : (encodeOutcome s.params o).frame.contentOff.toNat + (encodeOutcome s.params o).frame.contentLen.toNat ≤
      s.params.payloadCap.toNat) : (s.finish o).Inv :=
  inv_of_done hmem rfl hc (encodeOutcome_resKind_ne_none _ _) (ho.sound hview)

/-! ### The invariant under each operation -/

theorem State.resetPulse_inv (s : State) : s.resetPulse.Inv :=
  inv_of_idle ⟨List.Pairwise.nil, fun _ hc => absurd hc List.not_mem_nil⟩ rfl rfl (Nat.zero_le _) rfl

section Keeps

variable {s : State} (hs : s.Inv)
include hs

/-- The invariant does not speak of HDR_BUF, ENC, SQ_ID, CMD_REJECTED, the source, the events and the host's record. -/
theorem State.Inv.frame (hdrBuf enc : Bytes9) (sqId : BitVec 16) (cmdRejected : Bool) (source : Source) (inputs : List Event)
    (hostReads : List HostRead) (resetEpoch : Nat) :
    State.Inv { s with
      hdrBuf := hdrBuf, enc := enc, sqId := sqId, cmdRejected := cmdRejected, source := source, inputs := inputs,
      hostReads := hostReads, resetEpoch := resetEpoch } := by
  cases hs
  constructor <;> assumption

theorem State.Inv.popped : s.popped.Inv := hs.frame ..

theorem State.Inv.source (x : Source) : State.Inv { s with source := x } := hs.frame ..

theorem State.Inv.reject : s.reject.Inv := hs.frame ..

theorem State.Inv.answerHost (r : HostRead) : (s.answerHost r).Inv := hs.frame ..

theorem State.Inv.payloadSound_write {a : Nat} (ha : a < s.params.payloadCap.toNat) (v : Byte) :
    (s.writePayload a v).PayloadSound := ⟨Memory.write_wf hs.payloadForm a v, Memory.write_below hs.payloadCap ha v⟩

/-- In IDLE and DONE the invariant does not speak of the FH registers, and of PAYLOAD only that it is sound. -/
theorem State.Inv.freeWrite (hfree : s.phase.busy = false) (fh : FrameHeader) {m : Memory}
    (hmem : State.PayloadSound { s with payload := m }) : State.Inv { s with fh := fh, payload := m } := by
  rcases Phase.busy_eq_false.mp hfree with hp | hp
  · exact inv_of_idle hmem hp (hs.cleared (by simp [hp])) hs.hcnt (hs.idleCmd hp)
  · exact inv_of_done hmem hp hs.hcnt (hs.outcome hp) hs.sound

theorem State.Inv.regWrite (r : Reg) (v : Word) : (s.regWrite r v).Inv := by
  rcases s.regWrite_cases r v with ⟨hfree, fh, h⟩ | ⟨-, h⟩ | h
  · rw [h]; exact hs.freeWrite hfree fh hs.payloadSound
  · rw [h]; exact hs.frame ..
  · rw [h]; exact hs

theorem State.Inv.startParse : (startParse (s.accept 3)).Inv := by
  have hmem := hs.payloadSound
  by_cases hcap : s.params.payloadCap.toNat < s.fh.length.toNat
  · have hstart : Machine.startParse (s.accept 3) = capacityRefusal (s.accept 3) := startParse_above hcap
    rw [hstart]
    exact inv_of_refusal hmem rfl rfl rfl hcap (.inr rfl)
  · have hstart : Machine.startParse (s.accept 3) = { s.accept 3 with phase := .exec } := if_neg hcap
    rw [hstart]
    exact inv_of_exec hmem rfl rfl hs.hcnt (Nat.not_lt.mp hcap) (.inr rfl)

/-- Every CTRL write keeps the invariant, accepted or not. -/
theorem CtrlResult.inv {t : State} {op : Nat} (hc : CtrlResult s op t) : t.Inv := by
  rcases hc with ⟨-, rfl⟩ | rfl | ⟨-, ⟨-, rfl⟩ | ⟨-, rfl⟩ | ⟨-, rfl⟩ | ⟨-, rfl⟩⟩
  · exact hs
  · exact hs.reject
  · exact inv_of_hdr hs.payloadSound rfl rfl (Nat.zero_lt_succ 8) (.inl rfl)
  · exact inv_of_hdr hs.payloadSound rfl rfl (Nat.zero_lt_succ 8) (.inr rfl)
  · exact hs.startParse
  · exact hs.payloadSound.inv_finish (s := { s.accept 4 with enc := encodeHeader s.fh }) hs.hcnt trivial (Nat.zero_le _)

theorem deliver_keeps_inv {t : State} {e : Event} (h : deliver e s = .next t) (hunit : e ≠ .unitTurn) : t.Inv := by
  rcases deliver_cases h hunit with rfl | ⟨r, rfl⟩ | ⟨a, v, -, ha, hfree, rfl⟩ | ⟨x, rfl⟩ | ⟨-, rfl⟩ | ⟨off, v, r, -, -, -, rfl⟩ |
    ⟨v, -, hc⟩
  · exact hs
  · exact hs.answerHost r
  · exact hs.freeWrite hfree s.fh (hs.payloadSound_write ha v)
  · exact hs.source x
  · exact s.resetPulse_inv
  · exact hs.regWrite r v
  · exact hc.inv hs

/-- The header byte step: HCNT counts on, and the ninth byte leads where the length and the command say (R136, R138). -/
theorem headerByte_keeps_inv (hp : s.phase = .hdr) (hc : s.hcnt.toNat < 9) (b : Byte) : (headerByte b s).Inv := by
  have hmem := hs.payloadSound
  have hres : s.res = {} := hs.cleared (by simp [hp])
  have hcmd := hs.hdrCmd hp hc
  by_cases hlast : s.hcnt + 1 = 9
  · have hnine : (s.hcnt + 1).toNat = 9 := by rw [hlast]; rfl
    rw [headerByte_last hlast]
    rcases headerComplete_cases { s with hdrBuf := setByte9 s.hdrBuf s.hcnt.toNat b, hcnt := s.hcnt + 1 } with
      ⟨-, h⟩ | ⟨hne, habove, h⟩ | ⟨hne, hfits, -, h⟩ | ⟨hne, hfits, hlen, h⟩
    · rw [h]
      refine State.PayloadSound.inv_finish ?_ (Nat.le_of_eq hnine) trivial (Nat.zero_le _)
      exact hmem
    · rw [h]
      exact inv_of_refusal hmem hp hres hnine habove (.inl (hcmd.resolve_right hne))
    · rw [h]
      exact inv_of_exec hmem rfl hres (Nat.le_of_eq hnine) hfits (.inl (hcmd.resolve_right hne))
    · rw [h]
      exact inv_of_pay hmem rfl hres (Nat.le_of_eq hnine) (Nat.pos_of_ne_zero fun h0 => hlen (BitVec.eq_of_toNat_eq h0)) hfits
        (hcmd.resolve_right hne)
  · rw [headerByte_take hlast]
    exact inv_of_hdr hmem hp hres (by simp only; bv_omega) hcmd

/-- The payload byte step: one more byte inside the buffer, and then the EXEC step or the next byte is due (R140). -/
theorem payloadByteIn_keeps_inv (hp : s.phase = .pay) (b : Byte) : (payloadByteIn b s).Inv := by
  obtain ⟨hmore, hfits⟩ := hs.pay hp
  have hmem : (s.writePayload s.pcnt.toNat b).PayloadSound := hs.payloadSound_write (Nat.lt_of_lt_of_le hmore hfits) b
  have hres : s.res = {} := hs.cleared (by simp [hp])
  have hcmd := hs.payCmd hp
  by_cases hlast : s.pcnt + 1 = s.fh.length
  · rw [payloadByteIn_last hlast]
    exact inv_of_exec hmem rfl hres hs.hcnt hfits (.inl hcmd)
  · rw [payloadByteIn_more hlast]
    exact inv_of_pay hmem hp hres hs.hcnt (by simp only; bv_omega) hfits hcmd

theorem unitStep_keeps_inv {t : State} (h : unitStep s = .next t) : t.Inv := by
  have hmem := hs.payloadSound
  rcases unitStep_cases h with rfl | ⟨hp, hc, ⟨b, rest, -, rfl⟩ | ⟨-, -, rfl⟩⟩ | ⟨hp, ⟨b, rest, -, rfl⟩ | ⟨-, -, rfl⟩⟩ |
    ⟨hp, o, rfl, ho⟩
  · exact hs
  · exact headerByte_keeps_inv (hs.source ⟨rest, s.source.eoi⟩) hp hc b
  · exact hmem.inv_finish hs.hcnt Reason.noConfusion (Nat.zero_le _)
  · exact payloadByteIn_keeps_inv (hs.source ⟨rest, s.source.eoi⟩) hp b
  · exact hmem.inv_finish hs.hcnt Reason.noConfusion (Nat.zero_le _)
  · obtain ⟨-, hview⟩ := ho.fits.encodeOutcome s.params
    exact hmem.inv_finish hs.hcnt ho.regular (Nat.le_trans hview (hs.exec hp))

end Keeps

/-- Settles O55: a step is the unit's turn or one other event, and each keeps the invariant. -/
theorem stepKeepsTheInvariant : Obligations.StepKeepsTheInvariant := by
  intro s t hs ht
  rcases step_next_cases ht with ⟨-, h⟩ | ⟨e, rest, -, hunit, h⟩
  · exact unitStep_keeps_inv hs.popped h
  · exact deliver_keeps_inv hs.popped h hunit

end Sys2Proof.Machine

/-! PROOFS (state). CTRL writes: the rule (O11), what the commands leave alone (O27), how they start (O12), and that a step runs
the decoded instruction (O33). -/

namespace Sys2Proof.Machine

theorem Phase.busy_iff {p : Phase} : p.busy = true ↔ p = .hdr ∨ p = .pay ∨ p = .exec := by cases p <;> simp [Phase.busy]

theorem State.popped_eq {s : State} {e : Event} {rest : List Event} (hin : s.inputs = e :: rest) :
    s.popped = { s with inputs := rest } := by
  simp only [State.popped, hin, List.tail_cons]

/-- A write to CTRL runs the command that its word decodes to (R77). -/
theorem step_ctrlWrite {s : State} {v : Word} {rest : List Event} (hin : s.inputs = .regWrite 0x00 v :: rest) :
    step s = exec (decode s.params.types (.ctrl v)) s.popped := step_cons hin

theorem step_commandOf {s : State} {v : Word} {rest : List Event} (hin : s.inputs = .regWrite 0x00 v :: rest) :
    step s = exec (commandOf (v.toNat % 8)) { s with inputs := rest } := by
  rw [step_ctrlWrite hin, decode_ctrl, State.popped_eq hin]

/-! ### The commands in IDLE and DONE, and in the busy phases -/

section Free

variable {s : State} (hfree : s.phase.busy = false)
include hfree

theorem exec_readFrame_free : exec .readFrame s = .next (startReadFrame (s.accept 1)) :=
  congrArg Host.Outcome.next (State.command_free hfree)

theorem exec_decodeHeader_free : exec .decodeHeader s = .next (startDecodeHeader (s.accept 2)) :=
  congrArg Host.Outcome.next (State.command_free hfree)

theorem exec_parse_fits (hfits : s.fh.length.toNat ≤ s.params.payloadCap.toNat) :
    exec .parse s = .next { s.accept 3 with phase := .exec } := by
  have hstart : startParse (s.accept 3) = { s.accept 3 with phase := .exec } := if_neg (Nat.not_lt.mpr hfits)
  rw [← hstart]
  exact congrArg Host.Outcome.next (State.command_free hfree)

theorem exec_encodeHeader_free : exec .encodeHeader s = .next (startEncodeHeader (s.accept 4)) :=
  congrArg Host.Outcome.next (State.command_free hfree)

end Free

/-- The reserved opcodes are rejected in every phase. -/
theorem exec_commandOf_reserved {op : Nat} (h : 5 ≤ op) (s : State) : exec (commandOf op) s = .next s.reject := by
  match op, h with
  | 5, _ => rfl
  | 6, _ => rfl
  | _ + 7, _ => rfl

/-- The opcodes 1 to 4 are rejected in a busy phase (R44). -/
theorem exec_commandOf_busy {op : Nat} (h1 : 1 ≤ op) (h4 : op ≤ 4) {s : State} (hbusy : s.phase.busy = true) :
    exec (commandOf op) s = .next s.reject := by
  match op, h1, h4 with
  | 1, _, _ => exact congrArg Host.Outcome.next (State.command_busy hbusy)
  | 2, _, _ => exact congrArg Host.Outcome.next (State.command_busy hbusy)
  | 3, _, _ => exact congrArg Host.Outcome.next (State.command_busy hbusy)
  | 4, _, _ => exact congrArg Host.Outcome.next (State.command_busy hbusy)

/-- Settles O11: the write runs the command of its opcode, which NOP ignores, a busy phase or a reserved opcode rejects, and IDLE
and DONE accept. -/
theorem ctrlWriteRule : Obligations.CtrlWriteRule := by
  intro s v rest hin
  rw [step_commandOf hin]
  refine ⟨Phase.busy_iff, ?nop, ?reserved, ?busy, ?readFrame, ?decodeHeader, ?parse, ?parseAbove, ?encodeHeader⟩
  case nop => intro h; rw [h]; rfl
  case reserved => exact fun h => exec_commandOf_reserved h _
  case busy => exact fun h1 h4 hbusy => exec_commandOf_busy h1 h4 hbusy
  case readFrame => intro h hfree; rw [h]; exact exec_readFrame_free hfree
  case decodeHeader => intro h hfree; rw [h]; exact exec_decodeHeader_free hfree
  case parse => intro h hfree hfits; rw [h]; exact exec_parse_fits hfree hfits
  case parseAbove => intro h hfree habove; rw [h]; exact ⟨_, exec_parse_above_capacity hfree habove, rfl⟩
  case encodeHeader => intro h hfree; rw [h]; exact exec_encodeHeader_free hfree

/-- Settles O12: IDLE and DONE accept the three commands. -/
theorem commandsStart : Obligations.CommandsStart := fun _ hfree =>
  ⟨exec_readFrame_free hfree, exec_decodeHeader_free hfree, exec_parse_fits hfree⟩

/-- Settles O33: the host's CTRL write and the EXEC step both call `exec` on the decoded word. -/
theorem stepRunsTheDecodedInstruction : Obligations.StepRunsTheDecodedInstruction := by
  refine ⟨?ctrl, ?target⟩
  case ctrl => rintro s v rest i hin rfl; exact step_ctrlWrite hin
  case target => rintro s i hu hp rfl; rw [step_unit hu]; exact unitStep_exec (s := s.popped) hp

/-! ### What the commands leave alone -/

/-- A command is rejected or starts. -/
theorem command_next {s t : State} {op : BitVec 3} {start : State → State}
    (h : Host.Outcome.next (s.command op start) = (.next t : Host.Outcome State Fault Refusal)) :
    t = s.reject ∨ t = start (s.accept op) := by
  obtain rfl := Host.Outcome.next.inj h
  cases hb : s.phase.busy with
  | true => exact .inl (State.command_busy hb)
  | false => exact .inr (State.command_free hb)

/-- The commands are those of the eight opcodes. -/
theorem exists_commandOf {i : Instr}
    (hi : i ∈ [Instr.nop, .reserved5, .reserved6, .reserved7, .readFrame, .decodeHeader, .parse, .encodeHeader]) :
    ∃ op, op < 8 ∧ i = commandOf op := by
  have hall : ∀ i ∈ [Instr.nop, .reserved5, .reserved6, .reserved7, .readFrame, .decodeHeader, .parse, .encodeHeader],
      ∃ op, op < 8 ∧ i = commandOf op := by decide
  exact hall i hi

/-- Settles O27: each command is NOP, a rejection, or one of the four starts. -/
theorem commandsFrame : Obligations.CommandsFrame := by
  intro s t
  refine ⟨?nop, ?reserved, ?readFrame, ?twoMore, ?encodeHeader, ?all⟩
  case nop => exact fun h => (Host.Outcome.next.inj h).symm
  case reserved =>
    intro i hi h
    simp only [List.mem_cons, List.not_mem_nil, or_false] at hi
    rcases hi with rfl | rfl | rfl <;> cases h <;> rfl
  case readFrame =>
    intro h
    rcases command_next (start := startReadFrame) h with rfl | rfl <;> rfl
  case twoMore =>
    intro i hi h
    simp only [List.mem_cons, List.not_mem_nil, or_false] at hi
    rcases hi with rfl | rfl
    · rcases command_next (start := startDecodeHeader) h with rfl | rfl <;> rfl
    · rcases command_next (start := startParse) h with rfl | rfl
      · rfl
      · rcases startParse_cases (s.accept 3) with e | e <;> rw [e] <;> rfl
  case encodeHeader =>
    intro h
    rcases command_next (start := startEncodeHeader) h with rfl | rfl <;> rfl
  case all =>
    intro i hi h
    obtain ⟨op, hop, rfl⟩ := exists_commandOf hi
    obtain ⟨t', ht', hc⟩ := exec_commandOf (s := s) hop
    obtain rfl := Host.Outcome.next.inj (ht'.symm.trans h)
    rw [hc.frame]
    exact ⟨rfl, rfl, rfl, fun _ => rfl⟩

end Sys2Proof.Machine

/-! PROOFS (state). The register map: the bits of STATUS (O43) and of the frame-field registers (O44), the writable registers
(O45), the read-only ones (O46), and the register read (O47). -/

namespace Sys2Proof.Machine

/-! ### The map -/

theorem regAt_mem {off : Nat} {r : Reg} (h : regAt off = some r) : (off, r) ∈ regOffsets := by
  obtain ⟨before, after, hsplit, -⟩ := List.lookup_eq_some_iff.mp h
  rw [hsplit]
  exact List.mem_append_right _ List.mem_cons_self

/-- What holds of every line of the map holds of every offset that it lists. -/
theorem regAt_property {P : Nat × Reg → Prop} (hall : ∀ x ∈ regOffsets, P x) {off : Nat} {r : Reg} (h : regAt off = some r) :
    P (off, r) := hall _ (regAt_mem h)

theorem regAt_sqId {off : Nat} (h : regAt off = some .sqId) : off = 0x48 :=
  regAt_property (P := fun x => x.2 = .sqId → x.1 = 0x48) (by decide) h rfl

theorem regRead_unlisted {s : State} {off : Nat} (h : regAt off = none) : s.regRead off = 0 := by
  rw [State.regRead, h]

/-- The map lists multiples of 4 up to 0x4C, with CTRL, which reads 0, at 0. -/
theorem regRead_eq_zero {s : State} {off : Nat} (h : off = 0 ∨ 0x4C < off ∨ off % 4 ≠ 0) : s.regRead off = 0 := by
  cases hr : regAt off with
  | none => exact regRead_unlisted hr
  | some r =>
    obtain ⟨hle, hmul⟩ := regAt_property (P := fun x => x.1 ≤ 0x4C ∧ x.1 % 4 = 0) (by decide) hr
    obtain rfl : off = 0 := by omega
    rfl

/-! ### Fields of a register word -/

theorem getLsbD_append_low {m n i : Nat} {hi : BitVec m} {lo : BitVec n} (h : i < n) : (hi ++ lo).getLsbD i = lo.getLsbD i := by
  rw [BitVec.getLsbD_append, if_pos h]

theorem getLsbD_append_high {m n i : Nat} {hi : BitVec m} {lo : BitVec n} (h : n ≤ i) :
    (hi ++ lo).getLsbD i = hi.getLsbD (i - n) := by
  rw [BitVec.getLsbD_append, if_neg (Nat.not_lt.mpr h)]

theorem getLsbD_ofBool_zero (b : Bool) : (BitVec.ofBool b).getLsbD 0 = b := by cases b <;> rfl

/-- The fields of STATUS, each at its bits. -/
theorem statusWord_fields (s : State) :
    let w := s.statusWord
    w.extractLsb' 0 3 = s.phase.code ∧ w.extractLsb' 3 3 = s.res.resKind.code ∧ w.extractLsb' 6 4 = s.res.frameKind.code ∧
    w.extractLsb' 10 4 = s.res.reason.code ∧ w.extractLsb' 14 2 = s.res.action.code ∧ w.getLsbD 16 = s.res.frameSize ∧
    w.getLsbD 17 = s.cmdRejected ∧ w.getLsbD 18 = s.sqPresent ∧ w.extractLsb' 19 13 = 0 := by
  simp (disch := decide) only [State.statusWord, BitVec.extractLsb'_append_eq_of_le, BitVec.extractLsb'_append_eq_of_add_le,
    BitVec.extractLsb'_eq_self, getLsbD_append_low, getLsbD_append_high, getLsbD_ofBool_zero, Nat.reduceSub, true_and]
  rfl

theorem fflagsWord_fields (s : State) :
    let f := s.res.frame
    let w := s.fflagsWord
    w.extractLsb' 0 8 = f.padLen ∧ w.extractLsb' 8 8 = f.prioWeight ∧ w.getLsbD 16 = f.padded ∧ w.getLsbD 17 = f.hasPrio ∧
    w.getLsbD 18 = f.headersEnded ∧ w.getLsbD 19 = f.streamEnded ∧ w.getLsbD 20 = f.ack ∧ w.extractLsb' 21 11 = 0 := by
  simp (disch := decide) only [State.fflagsWord, BitVec.extractLsb'_append_eq_of_le, BitVec.extractLsb'_append_eq_of_add_le,
    BitVec.extractLsb'_eq_self, getLsbD_append_low, getLsbD_append_high, getLsbD_ofBool_zero, Nat.reduceSub, true_and]
  rfl

theorem setInfoWord_fields (s : State) :
    let w := s.setInfoWord
    w.extractLsb' 0 22 = s.res.frame.setCount ∧ w.extractLsb' 22 2 = 0 ∧ w.extractLsb' 24 3 = s.res.frame.setRem ∧
    w.extractLsb' 27 5 = 0 := by
  simp (disch := decide) only [State.setInfoWord, BitVec.extractLsb'_append_eq_of_le, BitVec.extractLsb'_append_eq_of_add_le,
    BitVec.extractLsb'_eq_self, Nat.reduceSub]
  exact ⟨trivial, rfl, trivial, rfl⟩

theorem prioWord_fields (s : State) :
    let w := s.prioWord
    w.getLsbD 31 = s.res.frame.prioExcl ∧
    w.extractLsb' 0 31 = (if s.res.frameKind = .pushPromise then s.res.frame.promisedSid else s.res.frame.prioDep) := by
  simp (disch := decide) only [State.prioWord, BitVec.extractLsb'_append_eq_of_add_le, BitVec.extractLsb'_eq_self,
    getLsbD_append_high, getLsbD_ofBool_zero, Nat.reduceSub, and_self]

/-- The four bytes of a word of four bytes, the first byte the highest (R60). -/
theorem extract_four_bytes (a b c d : Byte) :
    let w : Word := a ++ b ++ c ++ d
    w.extractLsb' 24 8 = a ∧ w.extractLsb' 16 8 = b ∧ w.extractLsb' 8 8 = c ∧ w.extractLsb' 0 8 = d := by
  simp (disch := decide) only [BitVec.extractLsb'_append_eq_of_le, BitVec.extractLsb'_append_eq_of_add_le,
    BitVec.extractLsb'_eq_self, Nat.reduceSub, and_self]

theorem fhTf_toNat (flags typ : Byte) : (0#16 ++ flags ++ typ : Word).toNat = typ.toNat + 256 * flags.toNat := by
  rw [BitVec.toNat_append, BitVec.toNat_append, ← Nat.shiftLeft_add_eq_or_of_lt typ.isLt]
  simp only [BitVec.toNat_ofNat, Nat.shiftLeft_eq, Nat.zero_mod, Nat.zero_mul, Nat.zero_or]
  omega

/-! ### Reads -/

/-- Settles O43: the fields stand at their bits, and each code is the spec's number. -/
theorem statusRegisterBits : Obligations.StatusRegisterBits := by
  intro s
  obtain ⟨hphase, hkind, hframe, hreason, haction, hbits⟩ := statusWord_fields s
  refine ⟨hphase.trans ?phase, hkind.trans ?resKind, hframe.trans ?frameKind, hreason.trans ?reason, haction.trans ?action,
    hbits⟩
  case phase => cases s.phase <;> rfl
  case resKind => cases s.res.resKind <;> rfl
  case frameKind => cases s.res.frameKind <;> rfl
  case reason => cases s.res.reason <;> rfl
  case action => cases s.res.action <;> rfl

/-- Settles O44: the fields of FFLAGS, SET_INFO and PRIO, and the registers that hold one field each. -/
theorem frameFieldRegisterBits : Obligations.FrameFieldRegisterBits := by
  intro s
  obtain ⟨hpad, hweight, hpadded, hprio, hheaders, hstream, hack, hrest⟩ := fflagsWord_fields s
  obtain ⟨hcount, hgap, hrem, htop⟩ := setInfoWord_fields s
  obtain ⟨hexcl, hdep⟩ := prioWord_fields s
  have hwide : ∀ {n : Nat} (x : BitVec n), n ≤ 32 → (x.setWidth 32).toNat = x.toNat := fun _ h => BitVec.toNat_setWidth_of_le h
  exact ⟨hpad, hweight, hpadded, hprio, hheaders, hstream, hack, hrest, hcount, hgap, hrem, htop, hexcl, hdep,
    hwide _ (by decide), hwide _ (by decide), rfl, rfl, hwide _ (by decide), hwide _ (by decide), hwide _ (by decide)⟩

/-- Settles O47: the read hands the value to the host, or is refused off the word grid. -/
theorem registerReadsHaveNoSideEffect : Obligations.RegisterReadsHaveNoSideEffect := by
  intro s off rest hin
  have hstep : step s = hostRegRead off { s with inputs := rest } := by rw [step_cons hin, State.popped_eq hin]; rfl
  rw [hstep]
  exact ⟨fun h => if_neg (not_not.mpr h), fun h => if_pos h⟩

/-! ### Writes -/

/-- A write to a listed register other than CTRL. -/
theorem step_regWrite {s : State} {off : Nat} {v : Word} {rest : List Event} {r : Reg} (hin : s.inputs = .regWrite off v :: rest)
    (hr : regAt off = some r) (hctrl : r ≠ .ctrl) : step s = .next (State.regWrite { s with inputs := rest } r v) := by
  have hmul : off % 4 = 0 := regAt_property (P := fun x => x.1 % 4 = 0) (by decide) hr
  rw [step_cons hin, State.popped_eq hin]
  simp only [deliver, hostRegWrite, hmul, hr]
  cases r with
  | ctrl => exact absurd rfl hctrl
  | _ => rfl

theorem step_regWrite_unlisted {s : State} {off : Nat} {v : Word} {rest : List Event} (hin : s.inputs = .regWrite off v :: rest)
    (hmul : off % 4 = 0) (hr : regAt off = none) : step s = .next { s with inputs := rest } := by
  rw [step_cons hin, State.popped_eq hin]
  simp [deliver, hostRegWrite, hmul, hr]

/-- Settles O45: an FH register takes the cut value unless the phase is busy, and SQ_ID always does. -/
theorem writableRegisters : Obligations.WritableRegisters := by
  intro s off v rest hin
  have cut : ∀ n, n ≤ 32 → v.setWidth n = v.extractLsb' 0 n := fun _ => BitVec.setWidth_eq_extractLsb'
  have lands : s.phase.busy = false → ∀ fh,
      State.writeHeader { s with inputs := rest } fh = { s with inputs := rest, fh := fh } := fun hfree =>
    State.writeHeader_free (s := { s with inputs := rest }) hfree
  have ignored : s.phase.busy = true → ∀ fh, State.writeHeader { s with inputs := rest } fh = { s with inputs := rest } :=
    fun hbusy => State.writeHeader_busy (s := { s with inputs := rest }) hbusy
  refine ⟨?length, ?typeFlags, ?streamID, ?busy, ?sqId⟩
  case length =>
    rintro hfree rfl
    rw [step_regWrite hin rfl Reg.noConfusion, ← cut 24 (by decide)]
    exact congrArg Host.Outcome.next (lands hfree _)
  case typeFlags =>
    rintro hfree rfl
    rw [step_regWrite hin rfl Reg.noConfusion]
    exact congrArg Host.Outcome.next (lands hfree _)
  case streamID =>
    rintro hfree rfl
    rw [step_regWrite hin rfl Reg.noConfusion, ← cut 31 (by decide)]
    exact congrArg Host.Outcome.next (lands hfree _)
  case busy =>
    rintro hbusy (rfl | rfl | rfl) <;> rw [step_regWrite hin rfl Reg.noConfusion] <;>
      exact congrArg Host.Outcome.next (ignored hbusy _)
  case sqId =>
    rintro rfl
    rw [step_regWrite hin rfl Reg.noConfusion, ← cut 16 (by decide)]
    rfl

/-- A register that is neither CTRL, an FH register nor SQ_ID ignores writes. -/
theorem State.regWrite_readOnly {r : Reg} (h : r ∉ [Reg.ctrl, .fhLen, .fhTf, .fhSid, .sqId]) (s : State) (v : Word) :
    s.regWrite r v = s := by
  cases r with
  | ctrl | fhLen | fhTf | fhSid | sqId => exact absurd (by decide) h
  | _ => rfl

/-- Settles O46: by what the map lists, and by the fields of the FH and ENC registers. -/
theorem readOnlyAndUnlistedOffsets : Obligations.ReadOnlyAndUnlistedOffsets := by
  refine ⟨?ignored, fun s off => regRead_eq_zero, ?header, ?enc⟩
  case ignored =>
    intro s off v rest hin hmul hoff
    cases hr : regAt off with
    | none => exact step_regWrite_unlisted hin hmul hr
    | some r =>
      have hro : r ∉ [Reg.ctrl, .fhLen, .fhTf, .fhSid, .sqId] := regAt_property
        (P := fun x => x.1 ∉ [0x00, 0x08, 0x0C, 0x10, 0x48] → x.2 ∉ [Reg.ctrl, .fhLen, .fhTf, .fhSid, .sqId]) (by decide) hr hoff
      rw [step_regWrite hin hr (fun h => hro (h ▸ List.mem_cons_self)), State.regWrite_readOnly hro]
  case header =>
    exact fun s => ⟨BitVec.toNat_setWidth_of_le (by decide), fhTf_toNat _ _, BitVec.toNat_setWidth_of_le (by decide),
      BitVec.toNat_setWidth_of_le (by decide)⟩
  case enc =>
    intro s
    obtain ⟨h0, h1, h2, h3⟩ := extract_four_bytes s.enc.b0 s.enc.b1 s.enc.b2 s.enc.b3
    obtain ⟨h4, h5, h6, h7⟩ := extract_four_bytes s.enc.b4 s.enc.b5 s.enc.b6 s.enc.b7
    exact ⟨h0, h1, h2, h3, h4, h5, h6, h7, BitVec.extractLsb'_append_eq_left, BitVec.extractLsb'_append_eq_right⟩

end Sys2Proof.Machine

/-! PROOFS (state). Who writes what: the result fields (O49), ENC, SQ_ID and the parameters (O51), PAYLOAD (O52), and when `done`
drops (O58). -/

namespace Sys2Proof.Machine

/-! ### A CTRL write -/

/-- Only an accepted command changes more than CMD_REJECTED, and only opcodes 1 to 4 are accepted, in IDLE and DONE (R44). -/
theorem CtrlResult.accepted {s t : State} {op : Nat} (hc : CtrlResult s op t) :
    t = s ∨ t = s.reject ∨ (s.phase.busy = false ∧ 1 ≤ op ∧ op ≤ 4) := by
  rcases hc with ⟨-, rfl⟩ | rfl | ⟨hfree, ⟨rfl, -⟩ | ⟨rfl, -⟩ | ⟨rfl, -⟩ | ⟨rfl, -⟩⟩
  · exact .inl rfl
  · exact .inr (.inl rfl)
  · exact .inr (.inr ⟨hfree, by decide, by decide⟩)
  · exact .inr (.inr ⟨hfree, by decide, by decide⟩)
  · exact .inr (.inr ⟨hfree, by decide, by decide⟩)
  · exact .inr (.inr ⟨hfree, by decide, by decide⟩)

/-- Of the commands only an accepted ENCODE_HEADER writes ENC (R125). -/
theorem CtrlResult.enc {s t : State} {op : Nat} (hc : CtrlResult s op t) : t.enc = s.enc ∨ (s.phase.busy = false ∧ op = 4) := by
  rcases hc with ⟨-, rfl⟩ | rfl | ⟨hfree, ⟨-, rfl⟩ | ⟨-, rfl⟩ | ⟨-, rfl⟩ | ⟨hop, -⟩⟩
  · exact .inl rfl
  · exact .inl rfl
  · exact .inl rfl
  · exact .inl rfl
  · rcases startParse_cases (s.accept 3) with h | h <;> rw [h] <;> exact .inl rfl
  · exact .inr ⟨hfree, hop⟩

/-- From DONE only the commands 1 to 3 lead out of DONE: ENCODE_HEADER ends in its acceptance (R125). -/
theorem CtrlResult.phase_of_done {s t : State} {op : Nat} (hc : CtrlResult s op t) (hdone : s.phase = .done) :
    t.phase = .done ∨ (1 ≤ op ∧ op ≤ 3) := by
  rcases hc with ⟨-, rfl⟩ | rfl | ⟨-, ⟨rfl, -⟩ | ⟨rfl, -⟩ | ⟨rfl, -⟩ | ⟨-, rfl⟩⟩
  · exact .inl hdone
  · exact .inl hdone
  · exact .inr (by decide)
  · exact .inr (by decide)
  · exact .inr (by decide)
  · exact .inl rfl

/-! ### The result fields -/

/-- The ninth header byte raises an outcome, or leaves the result fields alone. -/
theorem headerByte_res (b : Byte) (s : State) : (headerByte b s).res = s.res ∨ (headerByte b s).phase = .done := by
  by_cases hlast : s.hcnt + 1 = 9
  · rw [headerByte_last hlast]
    rcases headerComplete_cases { s with hdrBuf := setByte9 s.hdrBuf s.hcnt.toNat b, hcnt := s.hcnt + 1 } with
      ⟨-, h⟩ | ⟨-, -, h⟩ | ⟨-, -, -, h⟩ | ⟨-, -, -, h⟩
    · exact .inr (by rw [h]; rfl)
    · exact .inl (by rw [h])
    · exact .inl (by rw [h])
    · exact .inl (by rw [h])
  · rw [headerByte_take hlast]
    exact .inl rfl

/-- The unit's turn changes the result fields only by raising an outcome (R238). -/
theorem unitStep_res {s t : State} (h : unitStep s = .next t) : t.res = s.res ∨ (s.phase.busy = true ∧ t.phase = .done) := by
  rcases unitStep_cases h with rfl | ⟨hp, -, ⟨b, rest, -, rfl⟩ | ⟨-, -, rfl⟩⟩ | ⟨hp, ⟨b, rest, -, rfl⟩ | ⟨-, -, rfl⟩⟩ |
    ⟨hp, o, rfl, -⟩
  · exact .inl rfl
  · exact (headerByte_res b _).imp_right fun hdone => ⟨Phase.busy_iff.mpr (.inl hp), hdone⟩
  · exact .inr ⟨Phase.busy_iff.mpr (.inl hp), rfl⟩
  · exact .inl (by rw [payloadByteIn_eq]; rfl)
  · exact .inr ⟨Phase.busy_iff.mpr (.inr (.inl hp)), rfl⟩
  · exact .inr ⟨Phase.busy_iff.mpr (.inr (.inr hp)), rfl⟩

/-- Settles O49: by what the unit's turn, an accepted command and any other event do to the result fields. -/
theorem resultsAreStable : Obligations.ResultsAreStable := by
  intro s t ht hres
  rcases step_next_cases ht with ⟨hu, h⟩ | ⟨e, rest, hin, hunit, h⟩
  · obtain ⟨hbusy, hdone⟩ := (unitStep_res h).resolve_left hres
    exact .inr (.inl ⟨hu, hbusy, hdone⟩)
  · rcases deliver_frame h hunit with hframe | ⟨rfl, -⟩ | ⟨v, rfl, hc⟩
    · exact absurd (congrArg State.res hframe) hres
    · exact .inr (.inr ⟨rest, hin⟩)
    · rcases hc.accepted with rfl | rfl | ⟨hfree, hop⟩
      · exact absurd rfl hres
      · exact absurd rfl hres
      · exact .inl ⟨hfree, v, rest, hin, hop⟩

/-! ### ENC, SQ_ID and the parameters -/

theorem step_params {s t : State} (h : step s = .next t) : t.params = s.params := by
  rcases step_next_cases h with ⟨-, hs⟩ | ⟨e, rest, -, hunit, hs⟩
  · rw [unitStep_frame hs]; rfl
  · rcases deliver_frame hs hunit with hframe | ⟨-, rfl⟩ | ⟨v, -, hc⟩
    · rw [hframe]; rfl
    · rfl
    · rw [hc.frame]; rfl

theorem step_enc {s t : State} (h : step s = .next t) (henc : t.enc ≠ s.enc) :
    (∃ rest, s.inputs = .reset :: rest) ∨
      (s.phase.busy = false ∧ ∃ v rest, s.inputs = .regWrite 0x00 v :: rest ∧ v.toNat % 8 = 4) := by
  rcases step_next_cases h with ⟨-, hs⟩ | ⟨e, rest, hin, hunit, hs⟩
  · exact absurd (congrArg State.enc (unitStep_frame hs)) henc
  · rcases deliver_frame hs hunit with hframe | ⟨rfl, -⟩ | ⟨v, rfl, hc⟩
    · exact absurd (congrArg State.enc hframe) henc
    · exact .inl ⟨rest, hin⟩
    · obtain ⟨hfree, hop⟩ := hc.enc.resolve_left henc
      exact .inr ⟨hfree, v, rest, hin, hop⟩

/-- Of the events only a write at SQ_ID's offset and reset change SQ_ID (R46). -/
theorem deliver_sqId {s t : State} {e : Event} (h : deliver e s = .next t) (hunit : e ≠ .unitTurn) (hsq : t.sqId ≠ s.sqId) :
    e = .reset ∨ ∃ v, e = .regWrite 0x48 v := by
  rcases deliver_cases h hunit with rfl | ⟨r, rfl⟩ | ⟨a, v, -, -, -, rfl⟩ | ⟨x, rfl⟩ | ⟨he, -⟩ | ⟨off, v, r, he, hr, -, rfl⟩ |
    ⟨v, -, hc⟩
  · exact absurd rfl hsq
  · exact absurd rfl hsq
  · exact absurd rfl hsq
  · exact absurd rfl hsq
  · exact .inl he
  · rcases s.regWrite_cases r v with ⟨-, fh, h⟩ | ⟨rfl, -⟩ | h
    · exact absurd (congrArg State.sqId h) hsq
    · exact .inr ⟨v, regAt_sqId hr ▸ he⟩
    · exact absurd (congrArg State.sqId h) hsq
  · exact absurd (congrArg State.sqId hc.frame) hsq

theorem step_sqId {s t : State} (h : step s = .next t) (hsq : t.sqId ≠ s.sqId) :
    (∃ rest, s.inputs = .reset :: rest) ∨ ∃ v rest, s.inputs = .regWrite 0x48 v :: rest := by
  rcases step_next_cases h with ⟨-, hs⟩ | ⟨e, rest, hin, hunit, hs⟩
  · exact absurd (congrArg State.sqId (unitStep_frame hs)) hsq
  · rcases deliver_sqId hs hunit hsq with rfl | ⟨v, rfl⟩
    · exact .inl ⟨rest, hin⟩
    · exact .inr ⟨v, rest, hin⟩

/-- Settles O51: each by the frames of the unit's turn, of the commands and of the other events. -/
theorem encSqIdAndParametersWriters : Obligations.EncSqIdAndParametersWriters := fun _ _ h =>
  ⟨step_params h, step_enc h, step_sqId h⟩

/-! ### PAYLOAD -/

/-- The unit's turn changes a PAYLOAD byte only by storing the offered byte at PCNT in PAY (R140). -/
theorem unitStep_payload {s t : State} {a : Nat} (h : unitStep s = .next t) (ha : t.payloadByte a ≠ s.payloadByte a) :
    s.phase = .pay ∧ s.pcnt.toNat = a ∧ ∃ rest, s.source.bytes = t.payloadByte a :: rest := by
  rcases unitStep_cases h with rfl | ⟨-, -, ⟨b, rest, -, rfl⟩ | ⟨-, -, rfl⟩⟩ | ⟨hp, ⟨b, rest, hb, rfl⟩ | ⟨-, -, rfl⟩⟩ |
    ⟨-, o, rfl, -⟩
  · exact absurd rfl ha
  · rw [headerByte_frame] at ha
    exact absurd rfl ha
  · exact absurd rfl ha
  · have hread : ∀ x, (payloadByteIn b { s with source := ⟨rest, s.source.eoi⟩ }).payloadByte x =
        (s.writePayload s.pcnt.toNat b).payloadByte x := fun x => by rw [payloadByteIn_eq]; rfl
    rw [hread] at ha ⊢
    obtain rfl : a = s.pcnt.toNat := by
      by_contra hne
      exact ha (State.writePayload_other s b hne)
    exact ⟨hp, rfl, rest, by rw [State.writePayload_same, hb]⟩
  · exact absurd rfl ha
  · exact absurd rfl ha

/-- Of the events only a host write to it in IDLE or DONE and reset change a PAYLOAD byte (R63). -/
theorem deliver_payload {s t : State} {e : Event} {a : Nat} (h : deliver e s = .next t) (hunit : e ≠ .unitTurn)
    (ha : t.payloadByte a ≠ s.payloadByte a) :
    e = .reset ∨ (s.phase.busy = false ∧ e = .payloadWrite a (t.payloadByte a)) := by
  rcases deliver_cases h hunit with rfl | ⟨r, rfl⟩ | ⟨b, v, he, -, hfree, rfl⟩ | ⟨x, rfl⟩ | ⟨he, -⟩ | ⟨off, v, r, -, -, -, rfl⟩ |
    ⟨v, -, hc⟩
  · exact absurd rfl ha
  · exact absurd rfl ha
  · obtain rfl : a = b := by
      by_contra hne
      exact ha (State.writePayload_other s v hne)
    exact .inr ⟨hfree, by rw [he, State.writePayload_same]⟩
  · exact absurd rfl ha
  · exact .inl he
  · obtain ⟨fh, q, hq⟩ := s.regWrite_frame r v
    rw [hq] at ha
    exact absurd rfl ha
  · rw [hc.frame] at ha
    exact absurd rfl ha

/-- Settles O52: PAYLOAD is written at PCNT by the byte port and at the host's address by the host. -/
theorem payloadWriters : Obligations.PayloadWriters := by
  intro s t a ht ha
  rcases step_next_cases ht with ⟨hu, h⟩ | ⟨e, rest, hin, hunit, h⟩
  · exact .inl ⟨hu, unitStep_payload (s := s.popped) h ha⟩
  · rcases deliver_payload h hunit ha with rfl | ⟨hfree, rfl⟩
    · exact .inr (.inr ⟨rest, hin⟩)
    · exact .inr (.inl ⟨hfree, rest, hin⟩)

/-! ### The `done` output -/

theorem State.doneOutput_iff (s : State) : s.doneOutput = true ↔ s.phase = .done := beq_iff_eq

/-- Only the commands 1 to 3 and reset lead out of DONE (R270). -/
theorem step_leaves_done {s t : State} (h : step s = .next t) (hdone : s.phase = .done) (hleft : t.phase ≠ .done) :
    (∃ v rest, s.inputs = .regWrite 0x00 v :: rest ∧ 1 ≤ v.toNat % 8 ∧ v.toNat % 8 ≤ 3) ∨
      (∃ rest, s.inputs = .reset :: rest) := by
  rcases step_next_cases h with ⟨-, hs⟩ | ⟨e, rest, hin, hunit, hs⟩
  · rw [unitStep_rest (s := s.popped) (.inr hdone)] at hs
    obtain rfl := Host.Outcome.next.inj hs
    exact absurd hdone hleft
  · rcases deliver_frame hs hunit with hframe | ⟨rfl, -⟩ | ⟨v, rfl, hc⟩
    · exact absurd ((congrArg State.phase hframe).trans hdone) hleft
    · exact .inr ⟨rest, hin⟩
    · exact .inl ⟨v, rest, hin, (hc.phase_of_done hdone).resolve_left hleft⟩

/-- Settles O58: the unit rests in DONE, and no event but an accepted command and reset moves PHASE. -/
theorem doneDropsOnlyAtAcceptance : Obligations.DoneDropsOnlyAtAcceptance := by
  refine ⟨State.doneOutput_iff, fun s t ht hs hdrop => step_leaves_done ht (s.doneOutput_iff.mp hs) fun hd => ?_⟩
  rw [t.doneOutput_iff.mpr hd] at hdrop
  exact Bool.noConfusion hdrop

end Sys2Proof.Machine

/-! PROOFS (state). How many steps READ_FRAME takes, and what it leaves in PAYLOAD (O38). -/

namespace Sys2Proof.Machine

/-! ### Runs -/

theorem run_succ {s u : State} (h : step s = .next u) (k : Nat) : core.run (k + 1) s = core.run k u := by
  have hcore : core.step s = .next u := h
  simp only [Host.Core.run, hcore]

/-- A run of at least one step starts with a step that answers. -/
theorem run_succ_inv {k : Nat} {s t : State} (h : core.run (k + 1) s = .next t) :
    ∃ u, step s = .next u ∧ core.run k u = .next t := by
  simp only [Host.Core.run] at h
  split at h
  · next u hu => exact ⟨u, hu, h⟩
  · cases h
  · cases h

theorem run_add {j : Nat} (k : Nat) {s u : State} (h : core.run j s = .next u) : core.run (j + k) s = core.run k u := by
  induction j generalizing s with
  | zero =>
    obtain rfl := Host.Outcome.next.inj h
    rw [Nat.zero_add]
  | succ j ih =>
    obtain ⟨v, hv, hrun⟩ := run_succ_inv h
    rw [Nat.succ_add, run_succ hv, ih hrun]

/-- A run and one step more. -/
theorem run_step {k : Nat} {s u t : State} (h : core.run k s = .next u) (hu : step u = .next t) :
    core.run (k + 1) s = .next t := by
  rw [run_add 1 h, run_succ hu]
  rfl

/-- With no event pending the unit moves. -/
theorem step_of_no_event {s : State} (hin : s.inputs = []) : step s = unitStep s := by
  rw [step, hin]

/-! ### The EXEC step raises the pure form's outcome (R142) -/

/-- The pure dispatcher's name of a target. -/
def targetOf : Instr → Target
  | .parseData => .data
  | .parseHeaders => .headers
  | .parsePriority => .priority
  | .parseRstStream => .rstStream
  | .parseSettings => .settings
  | .parsePushPromise => .pushPromise
  | .passUnparsedPing | .passUnparsedGoaway | .passUnparsedWindowUpdate | .passUnparsedContinuation => .unparsed
  | _ => .unknown

theorem ite_eq_targetOf {P : Prop} [Decidable P] {a x : Target} {i j : Instr} (hi : a = targetOf i)
    (hj : ¬ P → x = targetOf j) : (if P then a else x) = targetOf (if P then i else j) := by
  split
  · exact hi
  · next h => exact hj h

/-- The decoder and the pure dispatcher read R84's table alike: six rows, then the four types that pass unparsed. -/
theorem dispatch_eq_targetOf (tv : TypeValues) (t : Byte) : dispatch tv t = targetOf (decode tv (.frameType t)) := by
  iterate 6 refine ite_eq_targetOf rfl fun _ => ?_
  simp only [List.mem_cons, List.not_mem_nil, or_false]
  split_ifs <;> simp_all [targetOf]

theorem exec_target_eq {s : State} {u : Byte} {i : Instr} (hi : i ∈ frameTargets u)
    (hd : dispatch s.params.types s.fh.typ = targetOf i) :
    exec i s = .next (s.finish (parseFrame s.params s.fh s.payloadByte)) := by
  rw [parseFrame, hd]
  simp only [frameTargets, List.mem_cons, List.not_mem_nil, or_false] at hi
  rcases hi with rfl | rfl | rfl | rfl | rfl | rfl | rfl | rfl | rfl | rfl | rfl <;> rfl

theorem execTurn_eq_parseFrame (s : State) :
    execTurn s = .next (s.finish (parseFrame s.params s.fh s.payloadByte)) :=
  exec_target_eq (decode_frameType_mem _ _) (dispatch_eq_targetOf _ _)

/-! ### A parser reads the payload below FH_LEN only -/

section Congr

variable {rd rd' : Nat → Byte} {c : Cursor}

/-- Two payloads hold the same first `n` bytes. -/
def AgreeBelow (n : Nat) (rd rd' : Nat → Byte) : Prop := ∀ a, a < n → rd a = rd' a

theorem readU32at_congr {n a : Nat} (h : AgreeBelow n rd rd') (ha : a + 4 ≤ n) : readU32at rd a = readU32at rd' a := by
  rw [readU32at, readU32at, h a (by omega), h (a + 1) (by omega), h (a + 2) (by omega), h (a + 3) (by omega)]

variable (h : AgreeBelow c.stop rd rd')
include h

theorem readByte_congr : readByte rd c = readByte rd' c := by
  by_cases hc : c.remaining < 1
  · rw [readByte_short hc, readByte_short hc]
  · rw [readByte_ok hc, readByte_ok hc, h c.pos (by unfold Cursor.remaining at hc; omega)]

theorem readU32_congr : readU32 rd c = readU32 rd' c := by
  by_cases hc : c.remaining < 4
  · rw [readU32_short hc, readU32_short hc]
  · rw [readU32_ok hc, readU32_ok hc, readU32at_congr h (by unfold Cursor.remaining at hc; omega)]

theorem padDecode_congr (p : Params) (flags : Byte) : padDecode p rd flags c = padDecode p rd' flags c := by
  rw [padDecode, padDecode, readByte_congr h]

theorem prioDecode_congr : prioDecode rd c = prioDecode rd' c := by
  rcases Nat.lt_trichotomy c.remaining 4 with hc | hc | hc
  · rw [prioDecode_short hc, prioDecode_short hc]
  · rw [prioDecode_noWeight hc, prioDecode_noWeight hc]
  · have hfive : c.pos + 5 ≤ c.stop := by unfold Cursor.remaining at hc; omega
    rw [prioDecode_ok hc, prioDecode_ok hc, readU32at_congr h (by omega), h (c.pos + 4) (by omega)]

theorem headersPrio_congr (p : Params) (flags : Byte) : headersPrio p rd flags c = headersPrio p rd' flags c := by
  rw [headersPrio, headersPrio, prioDecode_congr h]

end Congr

/-- A pad-length byte moves the cursor and not its end. -/
theorem padDecode_stop {p : Params} {rd : Nat → Byte} {flags : Byte} {n : BitVec 24} {pad : PadField}
    (h : padDecode p rd flags (Cursor.start n) = .ok pad) : pad.cursor.stop = n.toNat := by
  have hin := padDecode_readsInside (Cursor.start_inside n) p rd flags
  rw [h] at hin
  exact hin.2

theorem parseFrame_congr {p : Params} {fh : FrameHeader} {rd rd' : Nat → Byte} (h : AgreeBelow fh.length.toNat rd rd') :
    parseFrame p fh rd = parseFrame p fh rd' := by
  have hstart : AgreeBelow (Cursor.start fh.length).stop rd rd' := h
  unfold parseFrame
  split
  · rw [parseData, parseData, padDecode_congr hstart]
  · rw [parseHeaders, parseHeaders, padDecode_congr hstart]
    cases hpad : padDecode p rd' fh.flags (Cursor.start fh.length) with
    | error o => rfl
    | ok pad => simp only [headersPrio_congr (padDecode_stop hpad ▸ h)]
  · rw [parsePriority, parsePriority, prioDecode_congr hstart]
  · rw [parseRstStream, parseRstStream, readU32_congr hstart]
  · rfl
  · rw [parsePushPromise, parsePushPromise, padDecode_congr hstart]
    cases hpad : padDecode p rd' fh.flags (Cursor.start fh.length) with
    | error o => rfl
    | ok pad => simp only [readU32_congr (padDecode_stop hpad ▸ h)]
  · rfl
  · rfl

/-! ### The header phase: nine byte steps -/

theorem getByte9_headBytes9 (bs : List Byte) {i : Nat} (hi : i < 9) : getByte9 (headBytes9 bs) i = bs.getD i 0 := by
  interval_cases i <;> rfl

/-- A state in which `k` header bytes have been taken from the source, with HDR_BUF as given (R136). -/
def State.collected (s : State) (h : Bytes9) (k : Nat) : State :=
  { s with hdrBuf := h, hcnt := BitVec.ofNat 4 k, source := ⟨s.source.bytes.drop k, s.source.eoi⟩ }

section Header

variable {s : State} (hin : s.inputs = []) (hp : s.phase = .hdr)
include hin hp

theorem step_collected {k : Nat} (hk : k < 9) (h : Bytes9) (hlen : k < s.source.bytes.length) :
    step (s.collected h k) =
      .next (headerByte s.source.bytes[k] { s.collected h k with source := ⟨s.source.bytes.drop (k + 1), s.source.eoi⟩ }) := by
  have hc : (s.collected h k).hcnt.toNat < 9 := by simp only [State.collected, BitVec.toNat_ofNat]; omega
  have hb : (s.collected h k).source.bytes = s.source.bytes[k] :: s.source.bytes.drop (k + 1) :=
    List.drop_eq_getElem_cons hlen
  rw [step_of_no_event (s := s.collected h k) hin, unitStep_hdr (s := s.collected h k) hp hc, portTurn_take hb]
  rfl

/-- Up to eight bytes are only collected. -/
theorem step_collect {k : Nat} (hk : k < 8) (h : Bytes9) (hlen : k < s.source.bytes.length) :
    step (s.collected h k) = .next (s.collected (setByte9 h k s.source.bytes[k]) (k + 1)) := by
  have hcnt : (BitVec.ofNat 4 k).toNat = k := by rw [BitVec.toNat_ofNat, Nat.mod_eq_of_lt (by omega)]
  rw [step_collected hin hp (by omega) h hlen, headerByte_take (by simp only [State.collected]; bv_omega)]
  simp only [State.collected, hcnt, BitVec.ofNat_add]
  rfl

/-- The ninth completes the header (R138). -/
theorem step_ninth (h : Bytes9) (hlen : 8 < s.source.bytes.length) :
    step (s.collected h 8) = .next (headerComplete (s.collected (setByte9 h 8 s.source.bytes[8]) 9)) := by
  rw [step_collected hin hp (by decide) h hlen, headerByte_last rfl]
  rfl

theorem run_collect (h0 : s.hcnt = 0) {k : Nat} (hk : k ≤ 8) (hlen : k ≤ s.source.bytes.length) :
    ∃ h : Bytes9, core.run k s = .next (s.collected h k) ∧ ∀ i, i < k → getByte9 h i = s.source.bytes.getD i 0 := by
  induction k with
  | zero =>
    refine ⟨s.hdrBuf, congrArg Host.Outcome.next ?_, fun _ hi => absurd hi (Nat.not_lt_zero _)⟩
    have hzero : BitVec.ofNat 4 0 = s.hcnt := h0.symm
    rw [State.collected, hzero]
    rfl
  | succ k ih =>
    obtain ⟨h, hrun, hbytes⟩ := ih (by omega) (by omega)
    refine ⟨_, run_step hrun (step_collect hin hp hk h hlen), fun i hi => ?_⟩
    rw [getByte9_setByte9 (by omega)]
    split
    · next heq => rw [heq, List.getD_eq_getElem]
    · exact hbytes i (by omega)

/-- Nine steps take the nine header bytes and complete the header. -/
theorem run_header (h0 : s.hcnt = 0) (hlen : 9 ≤ s.source.bytes.length) :
    core.run 9 s = .next (headerComplete (s.collected (headBytes9 s.source.bytes) 9)) := by
  obtain ⟨h, hrun, hbytes⟩ := run_collect hin hp h0 (Nat.le_refl 8) (by omega)
  have hbuf : setByte9 h 8 s.source.bytes[8] = headBytes9 s.source.bytes := by
    refine sameUpTo.eq_of_nine fun i hi => ?_
    rw [getByte9_setByte9 (by decide), getByte9_headBytes9 _ hi]
    split
    · next heq => rw [heq, List.getD_eq_getElem]
    · exact hbytes i (by omega)
  rw [run_step hrun (step_ninth hin hp h hlen), hbuf]

end Header

/-! ### The payload phase: one byte step a byte -/

/-- In a frame's payload: `j` bytes of it are in PAYLOAD, PHASE is PAY while bytes are due and EXEC then (R140). -/
structure PayloadTaken (s : State) (j : Nat) (t : State) : Prop where
  frame : t = { s with payload := t.payload, pcnt := t.pcnt, phase := t.phase, source := t.source }
  pcnt : t.pcnt = BitVec.ofNat 24 j
  phase : t.phase = if t.pcnt = s.fh.length then .exec else .pay
  source : t.source = ⟨s.source.bytes.drop j, s.source.eoi⟩
  below : ∀ a, a < j → t.payloadByte a = s.source.bytes.getD a 0
  above : ∀ a, j ≤ a → t.payloadByte a = s.payloadByte a

theorem PayloadTaken.step {s t : State} {j : Nat} (h : PayloadTaken s j t) (hin : s.inputs = [])
    (hj : j < s.fh.length.toNat) (hlen : j < s.source.bytes.length) :
    ∃ u, step t = .next u ∧ PayloadTaken s (j + 1) u := by
  have hlt := s.fh.length.isLt
  have hcnt : t.pcnt.toNat = j := by rw [h.pcnt, BitVec.toNat_ofNat, Nat.mod_eq_of_lt (by omega)]
  have hpay : t.phase = .pay := h.phase.trans (if_neg fun e => by rw [e] at hcnt; omega)
  have hb : t.source.bytes = s.source.bytes[j] :: s.source.bytes.drop (j + 1) := by
    rw [h.source]; exact List.drop_eq_getElem_cons hlen
  have hnone : t.inputs = [] := by rw [h.frame]; exact hin
  have hfh : t.fh = s.fh := by rw [h.frame]
  have hread : ∀ a,
      (payloadByteIn s.source.bytes[j] { t with source := ⟨s.source.bytes.drop (j + 1), t.source.eoi⟩ }).payloadByte a =
        (t.writePayload t.pcnt.toNat s.source.bytes[j]).payloadByte a := fun a => by rw [payloadByteIn_eq]; rfl
  refine ⟨_, by rw [step_of_no_event hnone, unitStep_pay hpay, portTurn_take hb],
    ?frame, ?pcnt, ?phase, ?source, ?below, ?above⟩
  case frame => rw [payloadByteIn_eq, h.frame]; rfl
  case pcnt => rw [payloadByteIn_eq]; simp only [h.pcnt, BitVec.ofNat_add]; rfl
  case phase => rw [payloadByteIn_eq]; simp only [hfh, hpay]
  case source => rw [payloadByteIn_eq]; simp [h.source]
  case below =>
    intro a ha
    rw [hread, hcnt]
    by_cases heq : a = j
    · rw [heq, State.writePayload_same, List.getD_eq_getElem]
    · rw [State.writePayload_other _ _ heq, h.below a (by omega)]
  case above =>
    intro a ha
    rw [hread, hcnt, State.writePayload_other _ _ (by omega), h.above a (by omega)]

theorem run_payload {s : State} (hin : s.inputs = []) (h0 : s.pcnt = 0)
    (hp : s.phase = if s.pcnt = s.fh.length then .exec else .pay) {j : Nat} (hj : j ≤ s.fh.length.toNat)
    (hlen : j ≤ s.source.bytes.length) : ∃ t : State, core.run j s = .next t ∧ PayloadTaken s j t := by
  induction j with
  | zero => exact ⟨s, rfl, rfl, h0, hp, rfl, fun _ h => absurd h (Nat.not_lt_zero _), fun _ _ => rfl⟩
  | succ j ih =>
    obtain ⟨t, hrun, ht⟩ := ih (by omega) (by omega)
    obtain ⟨u, hu, hnext⟩ := ht.step hin hj hlen
    exact ⟨u, run_step hrun hu, hnext⟩

/-! ### The whole frame -/

/-- For READ_FRAME of a frame that fits, the ninth header byte makes the payload due, or the EXEC step when there is none
(R138). -/
theorem headerComplete_of_fits {q : State} (hcmd : q.curCmd ≠ 2) (hpcnt : q.pcnt = 0)
    (hfits : (decodeHeader q.hdrBuf).length.toNat ≤ q.params.payloadCap.toNat) :
    headerComplete q = { q with
      fh := decodeHeader q.hdrBuf, phase := if q.pcnt = (decodeHeader q.hdrBuf).length then .exec else .pay } := by
  rcases headerComplete_cases q with ⟨h2, -⟩ | ⟨-, habove, -⟩ | ⟨-, -, hlen, h⟩ | ⟨-, -, hlen, h⟩
  · exact absurd h2 hcmd
  · exact absurd hfits (Nat.not_le.mpr habove)
  · rw [h, if_pos (hpcnt.trans hlen.symm)]
  · rw [h, if_neg fun e => hlen (e.symm.trans hpcnt), hpcnt]

/-- With the whole payload taken, the EXEC step ends the command with the frame's outcome (R142). -/
theorem PayloadTaken.exec {s t : State} (h : PayloadTaken s s.fh.length.toNat t) (hin : s.inputs = []) :
    Machine.step t = .next (t.finish (parseFrame s.params s.fh fun a => s.source.bytes.getD a 0)) := by
  have hparams : t.params = s.params := by rw [h.frame]
  have hfh : t.fh = s.fh := by rw [h.frame]
  have hnone : t.inputs = [] := by rw [h.frame]; exact hin
  have hdue : t.phase = .exec := h.phase.trans (if_pos (by rw [h.pcnt, BitVec.ofNat_toNat, BitVec.setWidth_eq]))
  rw [step_of_no_event hnone, unitStep_exec hdue, execTurn_eq_parseFrame, hparams, hfh, parseFrame_congr h.below]

/-- READ_FRAME's state after the nine header bytes of a frame that fits. -/
def State.headerTaken (s : State) : State :=
  { s.collected (headBytes9 s.source.bytes) 9 with
    fh := headOf s.source.bytes, phase := if s.pcnt = (headOf s.source.bytes).length then .exec else .pay }

/-- READ_FRAME after its acceptance: nine header byte steps, a step a payload byte, and the EXEC step. -/
theorem run_frame {s : State} (hin : s.inputs = []) (hp : s.phase = .hdr) (hcmd : s.curCmd ≠ 2) (h0 : s.hcnt = 0)
    (hpcnt : s.pcnt = 0) (hlen : 9 + (headOf s.source.bytes).length.toNat ≤ s.source.bytes.length)
    (hfits : (headOf s.source.bytes).length.toNat ≤ s.params.payloadCap.toNat) :
    ∃ t : State, core.run (9 + (headOf s.source.bytes).length.toNat + 1) s = .next t ∧ t.phase = .done ∧
      t.res = encodeOutcome s.params
        (parseFrame s.params (headOf s.source.bytes) fun a => s.source.bytes.getD (9 + a) 0) ∧
      (∀ a, a < (headOf s.source.bytes).length.toNat → t.payloadByte a = s.source.bytes.getD (9 + a) 0) ∧
      (∀ a, (headOf s.source.bytes).length.toNat ≤ a → t.payloadByte a = s.payloadByte a) := by
  have hheader : core.run 9 s = .next s.headerTaken := by
    rw [run_header hin hp h0 (by omega),
      headerComplete_of_fits (q := s.collected (headBytes9 s.source.bytes) 9) hcmd hpcnt hfits]
    rfl
  obtain ⟨t, hrun, ht⟩ := run_payload (s := s.headerTaken) hin hpcnt rfl (Nat.le_refl _)
    (by simp only [State.headerTaken, State.collected, List.length_drop]; omega)
  have hbyte : ∀ a, s.headerTaken.source.bytes.getD a 0 = s.source.bytes.getD (9 + a) 0 := fun a => by
    simp only [State.headerTaken, State.collected, List.getD_eq_getElem?_getD, List.getElem?_drop]
  refine ⟨_, run_step ((run_add _ hheader).trans hrun) (ht.exec hin), rfl, ?res, fun a ha => ?below, fun a ha => ?above⟩
  case res =>
    have hparams : t.params = s.params := by rw [ht.frame]; rfl
    rw [State.finish_res, hparams]
    simp only [hbyte]
    rfl
  case below => exact (ht.below a ha).trans (hbyte a)
  case above => exact ht.above a ha

/-- Settles O38: the acceptance step, and then the frame's own steps. -/
theorem readFrameStepCount : Obligations.ReadFrameStepCount := by
  intro s v hfree hin hop hlen hfits
  have haccept : step s = .next (startReadFrame (State.accept { s with inputs := [] } 1)) := by
    rw [step_commandOf hin, hop]
    exact exec_readFrame_free hfree
  have hcmd : (1 : BitVec 3) ≠ 2 := by decide
  obtain ⟨t, hrun, hend⟩ := run_frame (s := startReadFrame (State.accept { s with inputs := [] } 1)) rfl rfl hcmd rfl rfl
    hlen hfits
  refine ⟨t, ?_, hend⟩
  rw [Nat.add_comm 1, Nat.add_right_comm, run_succ haccept]
  exact hrun

end Sys2Proof.Machine

/-! PROOFS (memory). Byte order (O5), how far a parser reads into the payload (O25), the host's payload port (O48), and when a
step answers a next state (O56). -/

namespace Sys2Proof.Machine

/-! ### Big-endian values -/

theorem foldl_bytes (bs : List Byte) (acc : Nat) :
    bs.foldl (fun acc b => acc * 256 + b.toNat) acc = acc * 256 ^ bs.length + BE bs := by
  induction bs generalizing acc with
  | nil => simp [BE]
  | cons b bs ih =>
    have hhead : BE (b :: bs) = (0 * 256 + b.toNat) * 256 ^ bs.length + BE bs := ih _
    rw [List.foldl_cons, ih, hhead, List.length_cons]
    ring

/-- The first byte is the highest (R60, R61). -/
theorem BE_cons (b : Byte) (bs : List Byte) : BE (b :: bs) = b.toNat * 256 ^ bs.length + BE bs :=
  (foldl_bytes bs (0 * 256 + b.toNat)).trans (by rw [Nat.zero_mul, Nat.zero_add])

theorem BE_eq_sum (bs : List Byte) : BE bs = ∑ k : Fin bs.length, bs[k].toNat * 256 ^ (bs.length - 1 - k.val) := by
  induction bs with
  | nil => rfl
  | cons b bs ih =>
    rw [BE_cons, ih]
    simp [Fin.sum_univ_succ, Nat.sub_sub, Nat.add_comm 1]

theorem BE_lt (bs : List Byte) : BE bs < 256 ^ bs.length := by
  induction bs with
  | nil => exact Nat.one_pos
  | cons b bs ih =>
    calc BE (b :: bs) = b.toNat * 256 ^ bs.length + BE bs := BE_cons b bs
      _ < b.toNat * 256 ^ bs.length + 256 ^ bs.length := Nat.add_lt_add_left ih _
      _ = (b.toNat + 1) * 256 ^ bs.length := (Nat.succ_mul ..).symm
      _ ≤ 256 * 256 ^ bs.length := Nat.mul_le_mul_right _ b.isLt
      _ = 256 ^ (b :: bs).length := (Nat.pow_succ' ..).symm

/-- Settles O5: the first byte has the weight of all that follow it, by induction on the sequence. -/
theorem bigEndianIsTheSum : Obligations.BigEndianIsTheSum := by
  refine ⟨fun bs => ⟨BE_eq_sum bs, ?_⟩, by decide, by decide⟩
  rw [Nat.pow_mul]
  exact BE_lt bs

/-! ### How far a parser reads

A reader that ends at address `m` or below answers by the bytes below `m` and below the payload's end. -/

section Within

variable {rd rd' : Nat → Byte} {c : Cursor} {m : Nat} (h : AgreeBelow (min m c.stop) rd rd')
include h

theorem readByte_congr_within (hm : c.pos + 1 ≤ m) : readByte rd c = readByte rd' c := by
  by_cases hc : c.remaining < 1
  · rw [readByte_short hc, readByte_short hc]
  · rw [readByte_ok hc, readByte_ok hc, h c.pos (by unfold Cursor.remaining at hc; omega)]

theorem readU32_congr_within (hm : c.pos + 4 ≤ m) : readU32 rd c = readU32 rd' c := by
  by_cases hc : c.remaining < 4
  · rw [readU32_short hc, readU32_short hc]
  · rw [readU32_ok hc, readU32_ok hc, readU32at_congr h (by unfold Cursor.remaining at hc; omega)]

theorem padDecode_congr_within (hm : c.pos + 1 ≤ m) (p : Params) (flags : Byte) :
    padDecode p rd flags c = padDecode p rd' flags c := by
  rw [padDecode, padDecode, readByte_congr_within h hm]

theorem prioDecode_congr_within (hm : c.pos + 5 ≤ m) : prioDecode rd c = prioDecode rd' c := by
  rcases Nat.lt_trichotomy c.remaining 4 with hc | hc | hc
  · rw [prioDecode_short hc, prioDecode_short hc]
  · rw [prioDecode_noWeight hc, prioDecode_noWeight hc]
  · have hfive : c.pos + 5 ≤ min m c.stop := by unfold Cursor.remaining at hc; omega
    rw [prioDecode_ok hc, prioDecode_ok hc, readU32at_congr h (by omega), h (c.pos + 4) (by omega)]

theorem headersPrio_congr_within (hm : c.pos + 5 ≤ m) (p : Params) (flags : Byte) :
    headersPrio p rd flags c = headersPrio p rd' flags c := by
  rw [headersPrio, headersPrio, prioDecode_congr_within h hm]

end Within

/-- The pad decoder consumes one byte at most (R161). -/
theorem padDecode_pos_le {p : Params} {rd : Nat → Byte} {flags : Byte} {c : Cursor} {pad : PadField}
    (h : padDecode p rd flags c = .ok pad) : pad.cursor.pos ≤ c.pos + 1 := by
  cases hpad : hasFlag flags p.flags.padded with
  | false =>
    rw [padDecode_unpadded hpad] at h
    cases h
    exact Nat.le_succ _
  | true =>
    by_cases hc : c.remaining < 1
    · rw [padDecode_short hpad hc] at h
      cases h
    · rw [padDecode_padded hpad hc] at h
      cases h
      exact Nat.le_refl _

/-- What follows a pad-length byte starts at address 0 or 1, and the payload's end is the frame's. -/
theorem agreeBelow_after_pad {p : Params} {rd rd' rd'' : Nat → Byte} {flags : Byte} {n : BitVec 24} {pad : PadField}
    (h : AgreeBelow (min 6 n.toNat) rd rd') (hpad : padDecode p rd'' flags (Cursor.start n) = .ok pad) :
    AgreeBelow (min 6 pad.cursor.stop) rd rd' ∧ pad.cursor.pos + 5 ≤ 6 := by
  rw [padDecode_stop hpad]
  exact ⟨h, Nat.add_le_add_right (padDecode_pos_le hpad) 5⟩

/-- The longest read is that of a padded Headers frame with a priority block: a pad length, a word and a weight. -/
theorem parseFrame_congr_six {p : Params} {fh : FrameHeader} {rd rd' : Nat → Byte}
    (h : AgreeBelow (min 6 fh.length.toNat) rd rd') : parseFrame p fh rd = parseFrame p fh rd' := by
  have hstart : AgreeBelow (min 6 (Cursor.start fh.length).stop) rd rd' := h
  have hzero : (Cursor.start fh.length).pos = 0 := rfl
  have hpad := padDecode_congr_within hstart (by omega) p fh.flags
  unfold parseFrame
  split
  · rw [parseData, parseData, hpad]
  · rw [parseHeaders, parseHeaders, hpad]
    cases hok : padDecode p rd' fh.flags (Cursor.start fh.length) with
    | error o => rfl
    | ok pad =>
      obtain ⟨hafter, hpos⟩ := agreeBelow_after_pad h hok
      simp only [headersPrio_congr_within hafter hpos]
  · rw [parsePriority, parsePriority, prioDecode_congr_within hstart (by omega)]
  · rw [parseRstStream, parseRstStream, readU32_congr_within hstart (by omega)]
  · rfl
  · rw [parsePushPromise, parsePushPromise, hpad]
    cases hok : padDecode p rd' fh.flags (Cursor.start fh.length) with
    | error o => rfl
    | ok pad =>
      obtain ⟨hafter, hpos⟩ := agreeBelow_after_pad h hok
      simp only [readU32_congr_within hafter (Nat.le_of_succ_le hpos)]
  · rfl
  · rfl

/-- Settles O25: every reader of a parser ends at address 6 or below, and reads below FH_LEN only. -/
theorem parsersReadAtMostSixBytes : Obligations.ParsersReadAtMostSixBytes := fun _ _ _ _ h =>
  parseFrame_congr_six fun a ha => h a (lt_min_iff.mp ha).1 (lt_min_iff.mp ha).2

/-! ### The host's payload port -/

section PayloadPort

variable {s : State} {a : Nat}

theorem hostPayloadRead_refused (ha : s.params.payloadCap.toNat ≤ a) : hostPayloadRead a s = .refused .payloadAddress :=
  if_pos ha

theorem hostPayloadRead_ok (ha : a < s.params.payloadCap.toNat) :
    hostPayloadRead a s = .next (s.answerHost (.payload a (s.payloadByte a))) := if_neg (Nat.not_le.mpr ha)

theorem hostPayloadWrite_refused (ha : s.params.payloadCap.toNat ≤ a) (v : Byte) :
    hostPayloadWrite a v s = .refused .payloadAddress := if_pos ha

theorem hostPayloadWrite_busy (ha : a < s.params.payloadCap.toNat) (hbusy : s.phase.busy = true) (v : Byte) :
    hostPayloadWrite a v s = .next s := (if_neg (Nat.not_le.mpr ha)).trans (if_pos hbusy)

theorem hostPayloadWrite_free (ha : a < s.params.payloadCap.toNat) (hfree : s.phase.busy = false) (v : Byte) :
    hostPayloadWrite a v s = .next (s.writePayload a v) :=
  (if_neg (Nat.not_le.mpr ha)).trans (if_neg (Bool.not_eq_true _ ▸ hfree))

variable {rest : List Event}

theorem step_payloadRead (hin : s.inputs = .payloadRead a :: rest) : step s = hostPayloadRead a { s with inputs := rest } := by
  rw [step_cons hin, State.popped_eq hin]; rfl

theorem step_payloadWrite {v : Byte} (hin : s.inputs = .payloadWrite a v :: rest) :
    step s = hostPayloadWrite a v { s with inputs := rest } := by
  rw [step_cons hin, State.popped_eq hin]; rfl

end PayloadPort

/-- Settles O48: the port's answers by address and phase, and PAYLOAD after a write. -/
theorem payloadPortRule : Obligations.PayloadPortRule := by
  intro s a v rest
  refine ⟨fun hin ha hfree => ?write, fun hin ha hbusy => ?busy, fun hin ha => ?read, fun hin ha => ?refused⟩
  case write =>
    rw [step_payloadWrite hin]
    exact ⟨_, hostPayloadWrite_free (s := { s with inputs := rest }) ha hfree v, rfl, State.writePayload_same _ a v,
      fun _ hb => State.writePayload_other _ v hb⟩
  case busy => rw [step_payloadWrite hin]; exact hostPayloadWrite_busy (s := { s with inputs := rest }) ha hbusy v
  case read => rw [step_payloadRead hin]; exact hostPayloadRead_ok (s := { s with inputs := rest }) ha
  case refused =>
    rcases hin with hin | hin
    · rw [step_payloadWrite hin]; exact hostPayloadWrite_refused (s := { s with inputs := rest }) ha v
    · rw [step_payloadRead hin]; exact hostPayloadRead_refused (s := { s with inputs := rest }) ha

/-! ### When a step answers a next state -/

/-- The unit's turn answers a next state but in the capacity refusal (R139). -/
theorem unitStep_answers_iff (s : State) : (∃ t, unitStep s = .next t) ↔ ¬ s.stuck := by
  refine ⟨?_, fun hs => ?_⟩
  · rintro ⟨t, ht⟩ hs
    rw [unitStep_stuck hs] at ht
    cases ht
  · cases hp : s.phase with
    | idle => exact ⟨_, unitStep_rest (.inl hp)⟩
    | hdr => exact ⟨_, unitStep_hdr hp (Nat.not_le.mp fun hc => hs ⟨hp, hc⟩)⟩
    | pay => exact ⟨_, unitStep_pay hp⟩
    | exec =>
      obtain ⟨o, ho, -⟩ := execTurn_next s
      exact ⟨_, (unitStep_exec hp).trans ho⟩
    | done => exact ⟨_, unitStep_rest (.inr hp)⟩

/-- On the word grid every register write has a step, whatever the map lists there (R46, R62). -/
theorem hostRegWrite_answers {off : Nat} (h : off % 4 = 0) (v : Word) (s : State) : ∃ t, hostRegWrite off v s = .next t := by
  rw [hostRegWrite, if_neg (not_not.mpr h)]
  split
  · obtain ⟨t, ht, -⟩ := exec_ctrl s.params.types v s
    exact ⟨t, ht⟩
  · exact ⟨_, rfl⟩
  · exact ⟨_, rfl⟩

/-- An access has a step when the port accepts its address, and is refused otherwise. -/
theorem answers_iff_of_refused {o : Host.Outcome State Fault Refusal} {P : Prop} {r : Refusal} (hno : ¬ P → o = .refused r)
    (hyes : P → ∃ t, o = .next t) : (∃ t, o = .next t) ↔ P := by
  refine ⟨fun ⟨t, ht⟩ => ?_, hyes⟩
  by_contra hP
  rw [hno hP] at ht
  cases ht

/-- Any other event answers a next state exactly when the ports have it (R62, R63). -/
theorem deliver_answers_iff {e : Event} (hunit : e ≠ .unitTurn) (s : State) :
    (∃ t, deliver e s = .next t) ↔ e.legal s.params = true := by
  cases e with
  | regWrite off v =>
    rw [Event.legal, beq_iff_eq]
    exact answers_iff_of_refused (fun h => if_pos h) fun h => hostRegWrite_answers h v s
  | regRead off =>
    rw [Event.legal, beq_iff_eq]
    exact answers_iff_of_refused (fun h => if_pos h) fun h => ⟨_, if_neg (not_not.mpr h)⟩
  | payloadWrite a v =>
    rw [Event.legal, decide_eq_true_iff]
    refine answers_iff_of_refused (fun h => hostPayloadWrite_refused (Nat.not_lt.mp h) v) fun h => ?_
    cases hb : s.phase.busy with
    | true => exact ⟨_, hostPayloadWrite_busy h hb v⟩
    | false => exact ⟨_, hostPayloadWrite_free h hb v⟩
  | payloadRead a =>
    rw [Event.legal, decide_eq_true_iff]
    exact answers_iff_of_refused (fun h => hostPayloadRead_refused (Nat.not_lt.mp h)) fun h => ⟨_, hostPayloadRead_ok h⟩
  | offer b => exact ⟨fun _ => rfl, fun _ => ⟨_, rfl⟩⟩
  | setEoi v => exact ⟨fun _ => rfl, fun _ => ⟨_, rfl⟩⟩
  | reset => exact ⟨fun _ => rfl, fun _ => ⟨_, rfl⟩⟩
  | unitTurn => exact absurd rfl hunit

/-- The unit may always be given its turn; what counts is the capacity refusal. -/
theorem ready_iff_of_unitMoves {s : State} (h : s.unitMoves = true) : s.ready ↔ ¬ s.stuck := by
  refine ⟨fun hr => hr.2 h, fun hs => ⟨fun e he => ?_, fun _ => hs⟩⟩
  obtain ⟨rest, hin⟩ := List.head?_eq_some_iff.mp he
  rw [State.unitMoves, hin] at h
  rw [beq_iff_eq.mp h]
  rfl

/-- For any other event what counts is the port. -/
theorem ready_iff_of_event {s : State} {e : Event} {rest : List Event} (hin : s.inputs = e :: rest) (hunit : e ≠ .unitTurn) :
    s.ready ↔ e.legal s.params = true := by
  simp [State.ready, State.unitMoves, hin, hunit]

/-- Settles O56: the step to come is the unit's turn or one other event, and each answers under its own condition. -/
theorem stepAnswersExactlyWhenReady : Obligations.StepAnswersExactlyWhenReady := by
  intro s
  rcases step_cases s with ⟨hu, hstep⟩ | ⟨e, rest, hin, hunit, hstep⟩
  · rw [hstep, unitStep_answers_iff, State.popped_stuck]
    exact ready_iff_of_unitMoves hu
  · rw [hstep, deliver_answers_iff hunit]
    exact ready_iff_of_event hin hunit

end Sys2Proof.Machine

/-! PROOFS (encoding). The decoder and the encoder undo each other (O3, O4) and follow the opcode table (O1, O2, O10, O34). -/

namespace Sys2Proof.Machine

/-! ### The dispatcher's table as a list of its named lines (R84) -/

/-- The ten named lines of R84's table: a type value and its target. -/
def namedTargets (tv : TypeValues) : List (Byte × Instr) :=
  [(tv.data, .parseData), (tv.headers, .parseHeaders), (tv.priority, .parsePriority), (tv.rstStream, .parseRstStream),
    (tv.settings, .parseSettings), (tv.pushPromise, .parsePushPromise), (tv.ping, .passUnparsedPing),
    (tv.goAway, .passUnparsedGoaway), (tv.windowUpdate, .passUnparsedWindowUpdate),
    (tv.continuation, .passUnparsedContinuation)]

/-- The target of the first line that has a type byte, and PASS_UNKNOWN when none has it. -/
def firstTarget (t : Byte) : List (Byte × Instr) → Instr
  | [] => .passUnknown t
  | (c, i) :: lines => if t = c then i else firstTarget t lines

theorem decodeFrameType_eq_firstTarget (tv : TypeValues) (t : Byte) :
    decodeFrameType tv t = firstTarget t (namedTargets tv) := rfl

theorem firstTarget_cases (t : Byte) (lines : List (Byte × Instr)) :
    (t, firstTarget t lines) ∈ lines ∨ (t ∉ lines.map Prod.fst ∧ firstTarget t lines = .passUnknown t) := by
  induction lines with
  | nil => exact .inr ⟨List.not_mem_nil, rfl⟩
  | cons line lines ih =>
    rw [firstTarget]
    split
    · next h => subst h; exact .inl List.mem_cons_self
    · next h =>
      rcases ih with hmem | ⟨hnot, hunknown⟩
      · exact .inl (List.mem_cons_of_mem _ hmem)
      · exact .inr ⟨List.not_mem_cons_of_ne_of_not_mem h hnot, hunknown⟩

/-- A type byte decodes to a named line that has it, or, when no line has it, to PASS_UNKNOWN (R84, R85). -/
theorem decodeFrameType_cases (tv : TypeValues) (t : Byte) :
    (t, decodeFrameType tv t) ∈ namedTargets tv ∨ (t ∉ tv.codes ∧ decodeFrameType tv t = .passUnknown t) := by
  rw [decodeFrameType_eq_firstTarget]
  exact firstTarget_cases t (namedTargets tv)

theorem decodeFrameType_of_unnamed {tv : TypeValues} {t : Byte} (h : t ∉ tv.codes) :
    decodeFrameType tv t = .passUnknown t :=
  (decodeFrameType_cases tv t).elim (fun hmem => absurd (List.mem_map_of_mem (f := Prod.fst) hmem) h) And.right

/-- With ten distinct values a line of the table is the only one for its type byte. -/
theorem decodeFrameType_of_mem {tv : TypeValues} (hwf : tv.wf) {t : Byte} {i : Instr} (h : (t, i) ∈ namedTargets tv) :
    decodeFrameType tv t = i := by
  have hnodup : ((namedTargets tv).map Prod.fst).Nodup := hwf
  rcases decodeFrameType_cases tv t with hmem | ⟨hnot, -⟩
  · exact (Prod.mk.inj (List.inj_on_of_nodup_map hnodup hmem h rfl)).2
  · exact absurd (List.mem_map_of_mem (f := Prod.fst) h) hnot

theorem encode_of_mem {tv : TypeValues} : ∀ x ∈ namedTargets tv, encode tv x.2 = .frameType x.1 := by
  simp [namedTargets, encode]

theorem wfFor_of_mem {tv : TypeValues} : ∀ x ∈ namedTargets tv, x.2.wfFor tv = true := by
  simp [namedTargets, Instr.wfFor]

theorem wfFor_passUnknown {tv : TypeValues} {t : Byte} : (Instr.passUnknown t).wfFor tv = true ↔ t ∉ tv.codes := by
  simp [Instr.wfFor]

/-- Settles O3: a command's word has its opcode in bits [2:0], a named target's type value is on one line of the table only, and
a well-formed PASS_UNKNOWN carries a type byte that is on none. -/
theorem decodeUndoesEncode : Obligations.DecodeUndoesEncode := by
  intro tv i hwf hi
  cases i with
  | nop | readFrame | decodeHeader | parse | encodeHeader | reserved5 | reserved6 | reserved7 => rfl
  | passUnknown t => exact decodeFrameType_of_unnamed (wfFor_passUnknown.mp hi)
  | _ => exact decodeFrameType_of_mem hwf (by simp [namedTargets])

/-! ### The two encodings, the other way round -/

theorem encode_decode_frameType (tv : TypeValues) (b : Byte) : encode tv (decode tv (.frameType b)) = .frameType b := by
  rcases decodeFrameType_cases tv b with hmem | ⟨-, hunknown⟩
  · exact encode_of_mem _ hmem
  · rw [decode, hunknown]; rfl

theorem encode_commandOf (tv : TypeValues) {op : Nat} (hop : op < 8) :
    encode tv (commandOf op) = .ctrl (BitVec.ofNat 32 op) := by
  interval_cases op <;> rfl

/-- Bits [2:0] are the value modulo 8. -/
theorem and_seven_eq_mod (w : Word) : w &&& 7 = BitVec.ofNat 32 (w.toNat % 8) := by
  have hand : w.toNat &&& 7 = w.toNat % 8 := Nat.and_two_pow_sub_one_eq_mod w.toNat 3
  apply BitVec.eq_of_toNat_eq
  rw [BitVec.toNat_and, BitVec.toNat_ofNat, Nat.mod_eq_of_lt (by omega)]
  exact hand

/-- Encoding gives a command word back with its ignored bits 0 (R97, R100). -/
theorem encode_decode_ctrl (tv : TypeValues) (w : Word) : encode tv (decode tv (.ctrl w)) = .ctrl (w &&& 7) := by
  rw [decode_ctrl, encode_commandOf tv (Nat.mod_lt _ (by decide)), and_seven_eq_mod]

theorem wfFor_commandOf (tv : TypeValues) {op : Nat} (hop : op < 8) : (commandOf op).wfFor tv = true := by
  interval_cases op <;> rfl

theorem decode_wfFor (tv : TypeValues) (e : Encoding) : (decode tv e).wfFor tv = true := by
  cases e with
  | ctrl w => rw [decode_ctrl]; exact wfFor_commandOf tv (Nat.mod_lt _ (by decide))
  | frameType b =>
    rcases decodeFrameType_cases tv b with hmem | ⟨hnot, hunknown⟩
    · exact wfFor_of_mem _ hmem
    · rw [decode, hunknown]; exact wfFor_passUnknown.mpr hnot

/-- Settles O4: each encoding by its own table, a command word by its opcode and a type byte by the line that it is on. -/
theorem encodeUndoesDecode : Obligations.EncodeUndoesDecode := fun tv =>
  ⟨encode_decode_frameType tv, encode_decode_ctrl tv, decode_wfFor tv⟩

/-! ### The opcode table -/

/-- The opcode table, both formats. -/
abbrev opcodeTable : List Row := ctrlRows ++ frameTypeRows

/-- Two rows that can share no word: they are of two formats, or their patterns differ in a bit of both masks. -/
def RowsDisjoint (r r' : Row) : Prop := r.format ≠ r'.format ∨ r.pattern &&& r'.mask ≠ r'.pattern &&& r.mask

theorem rowsDisjoint_symm : Std.Symm RowsDisjoint := ⟨fun _ _ h => h.imp Ne.symm Ne.symm⟩

theorem opcodeTable_pairwise : opcodeTable.Pairwise RowsDisjoint := by
  unfold RowsDisjoint
  decide

/-- The value of a word's bits. -/
def wordValue : Encoding → Nat
  | .ctrl w => w.toNat
  | .frameType b => b.toNat

/-- The format of a word. -/
def wordFormat : Encoding → Format
  | .ctrl _ => .ctrl
  | .frameType _ => .frameType

theorem holds_iff {r : Row} {e : Encoding} :
    r.holds e = true ↔ r.format = wordFormat e ∧ wordValue e &&& r.mask = r.pattern := by
  cases e <;> simp [Row.holds, wordFormat, wordValue]

/-- A word on two rows would show both patterns where the masks meet. -/
theorem RowsDisjoint.not_both {r r' : Row} (hd : RowsDisjoint r r') {e : Encoding} (h : r.holds e = true)
    (h' : r'.holds e = true) : False := by
  obtain ⟨hformat, hpattern⟩ := holds_iff.mp h
  obtain ⟨hformat', hpattern'⟩ := holds_iff.mp h'
  rcases hd with hne | hne
  · exact hne (hformat.trans hformat'.symm)
  · exact hne (by rw [← hpattern, ← hpattern', Nat.and_right_comm])

theorem eq_of_holds {r r' : Row} (hr : r ∈ opcodeTable) (hr' : r' ∈ opcodeTable) {e : Encoding} (h : r.holds e = true)
    (h' : r'.holds e = true) : r = r' := by
  have := rowsDisjoint_symm
  by_contra hne
  exact (opcodeTable_pairwise.forall hr hr' hne).not_both h h'

/-- The encoder's word of an instruction belongs to a row that has its mnemonic. -/
theorem exists_row_of_encode {i : Instr} (hi : i.wf = true) :
    ∃ r ∈ opcodeTable, r.mnemonic = i.mnemonic ∧ r.holds (encode {} i) = true := by
  have hrow : Laws.TableRow.Statement i := by
    cases i with
    | nop => exact Laws.TableRow.nop
    | readFrame => exact Laws.TableRow.readFrame
    | decodeHeader => exact Laws.TableRow.decodeHeader
    | parse => exact Laws.TableRow.parse
    | encodeHeader => exact Laws.TableRow.encodeHeader
    | reserved5 => exact Laws.TableRow.reserved5
    | reserved6 => exact Laws.TableRow.reserved6
    | reserved7 => exact Laws.TableRow.reserved7
    | parseData => exact Laws.TableRow.parseData
    | parseHeaders => exact Laws.TableRow.parseHeaders
    | parsePriority => exact Laws.TableRow.parsePriority
    | parseRstStream => exact Laws.TableRow.parseRstStream
    | parseSettings => exact Laws.TableRow.parseSettings
    | parsePushPromise => exact Laws.TableRow.parsePushPromise
    | passUnparsedPing => exact Laws.TableRow.passUnparsedPing
    | passUnparsedGoaway => exact Laws.TableRow.passUnparsedGoaway
    | passUnparsedWindowUpdate => exact Laws.TableRow.passUnparsedWindowUpdate
    | passUnparsedContinuation => exact Laws.TableRow.passUnparsedContinuation
    | passUnknown t => exact Laws.TableRow.passUnknown t
  obtain ⟨r, hr, h⟩ := List.any_eq_true.mp (hrow hi)
  rw [Bool.and_eq_true, beq_iff_eq] at h
  exact ⟨r, hr, h⟩

/-- The rows of format CTRL look at bits [2:0] only (R97). -/
theorem mask_of_ctrl_row : ∀ r ∈ opcodeTable, r.format = .ctrl → r.mask = 7 := by decide

theorem holds_of_holds_low {r : Row} (hr : r ∈ opcodeTable) {w : Word} (h : r.holds (.ctrl (w &&& 7)) = true) :
    r.holds (.ctrl w) = true := by
  obtain ⟨hformat, hpattern⟩ := holds_iff.mp h
  rw [mask_of_ctrl_row r hr hformat] at hpattern
  refine holds_iff.mpr ⟨hformat, ?_⟩
  rw [mask_of_ctrl_row r hr hformat, ← hpattern]
  simp [wordValue]

/-- Every word belongs to a row with the mnemonic of what it decodes to: its own word's row, as the encoder gives that back. -/
theorem exists_row_of_decode (e : Encoding) :
    ∃ r ∈ opcodeTable, r.mnemonic = (decode {} e).mnemonic ∧ r.holds e = true := by
  obtain ⟨r, hr, hname, hholds⟩ := exists_row_of_encode (decode_wfFor {} e)
  refine ⟨r, hr, hname, ?_⟩
  cases e with
  | ctrl w => exact holds_of_holds_low hr (encode_decode_ctrl {} w ▸ hholds)
  | frameType b => exact encode_decode_frameType {} b ▸ hholds

/-- Settles O2: the rows share no word, so the row with the decoded mnemonic is the only one that holds. -/
theorem decodeFollowsTheOpcodeTable : Obligations.DecodeFollowsTheOpcodeTable := by
  intro e
  obtain ⟨row, hrow, hname, hholds⟩ := exists_row_of_decode e
  have honly : ∀ r ∈ opcodeTable, r.holds e = (r == row) := fun r hr =>
    Bool.eq_iff_iff.mpr
      ⟨fun h => beq_iff_eq.mpr (eq_of_holds hr hrow h hholds), fun h => beq_iff_eq.mp h ▸ hholds⟩
  refine ⟨fun r hr h => ?_, ?_⟩
  · rw [eq_of_holds hr hrow h hholds, hname]
  · rw [List.filter_congr honly, ← List.countP_eq_length_filter]
    exact List.count_eq_one_of_mem (by decide) hrow

/-! ### Commands, and words of the table -/

/-- Settles O1 on the ten words. -/
theorem specWordsDecode : Obligations.SpecWordsDecode := by
  unfold Obligations.SpecWordsDecode
  decide

/-- Settles O10: the decoder sees the opcode only, and NOP and the reserved commands have one meaning in every state. -/
theorem hintAndReservedCommands : Obligations.HintAndReservedCommands := by
  refine ⟨fun _ => rfl, fun s i hi => ?reserved, fun tv w => ?opcodes, fun tv w w' h => ?ignored⟩
  case reserved =>
    simp only [List.mem_cons, List.not_mem_nil, or_false] at hi
    rcases hi with rfl | rfl | rfl <;> rfl
  case opcodes =>
    rw [decode_ctrl]
    refine ⟨?_, ?_, ?_, ?_⟩ <;> intro h <;> rw [h] <;> rfl
  case ignored => rw [decode_ctrl, decode_ctrl, h]

/-- The format that a table word of a width has: 8 bits are a type byte, any other width a command word (log 5). -/
def tableEncoding (nbits w : Nat) : Encoding :=
  if nbits = 8 then .frameType (BitVec.ofNat 8 w) else .ctrl (BitVec.ofNat 32 w)

/-- An accepted table word decodes by its width's format. -/
theorem eq_decode_of_decodeTableWord {nbits w : Nat} {i : Instr} (h : decodeTableWord nbits w = some i) :
    i = decode {} (tableEncoding nbits w) := by
  unfold decodeTableWord decodeBits at h
  split_ifs at h with hformat hwide h8
  · rw [tableEncoding, if_pos h8]; exact (Option.some.inj h).symm
  · rw [tableEncoding, if_neg h8]; exact (Option.some.inj h).symm

/-- Settles O34: a type byte is run by the unit's turn in EXEC, a command word by the write to CTRL. -/
theorem fetchedWordRunsNext : Obligations.FetchedWordRunsNext := by
  intro s nbits w i htypes hword
  rw [eq_decode_of_decodeTableWord hword]
  by_cases h8 : nbits = 8
  · have hfetch : s.withFetchWord nbits w =
        { s with phase := .exec, fh := { s.fh with typ := BitVec.ofNat 8 w }, inputs := .unitTurn :: s.inputs } := if_pos h8
    rw [hfetch, if_pos h8, tableEncoding, if_pos h8, ← htypes]
    exact stepRunsTheDecodedInstruction.2 _ _ rfl rfl rfl
  · have hfetch : s.withFetchWord nbits w =
        { s with inputs := .regWrite 0x00 (BitVec.ofNat 32 w) :: s.inputs } := if_neg h8
    rw [hfetch, if_neg h8, tableEncoding, if_neg h8, ← htypes]
    exact stepRunsTheDecodedInstruction.1 _ _ _ _ rfl rfl

end Sys2Proof.Machine

/-! PROOFS (encoding). The reserved bit of a header changes no step (O8). -/

namespace Sys2Proof.Machine

/-! ### The reserved bit of a header (R90) -/

/-- A mask of the reserved bit holds none of the seven bits below it. -/
theorem reservedBit_low {k : Byte} (hk : k = 0 ∨ k = 0x80) : ∀ i < 7, k.getLsbD i = false := by
  rcases hk with rfl | rfl <;> decide

/-- The decoder does not see the reserved bit (R120). -/
theorem decodeHeader_flipReserved {k : Byte} (hk : k = 0 ∨ k = 0x80) (h : Bytes9) :
    decodeHeader { h with b5 := h.b5 ^^^ k } = decodeHeader h := by
  rw [decodeHeader, decodeHeader, FrameHeader.mk.injEq]
  refine ⟨rfl, rfl, rfl, BitVec.eq_of_getLsbD_eq fun i hi => ?_⟩
  have hlow : k.getLsbD (i - 8 - 8 - 8) = false := reservedBit_low hk _ (by omega)
  simp only [BitVec.getLsbD_setWidth, BitVec.getLsbD_append, BitVec.getLsbD_xor, hlow, Bool.xor_false]

section OtherHeader

variable {s : State} {h : Bytes9}

theorem headerComplete_withHdr (hdec : decodeHeader h = decodeHeader s.hdrBuf) :
    headerComplete (s.withHdr h) = (headerComplete s).withHdr h := by
  simp only [headerComplete, State.withHdr, hdec]
  split_ifs <;> rfl

variable (hninth : ∀ b, decodeHeader (setByte9 h 8 b) = decodeHeader (setByte9 s.hdrBuf 8 b))
include hninth

/-- Header bytes that the ninth byte completes to one header act alike in the header byte step (R136, R138). -/
theorem headerByte_withHdr (b : Byte) : ∃ h', headerByte b (s.withHdr h) = (headerByte b s).withHdr h' := by
  refine ⟨setByte9 h s.hcnt.toNat b, ?_⟩
  by_cases hlast : s.hcnt + 1 = 9
  · have hcnt8 : s.hcnt.toNat = 8 := by bv_omega
    rw [headerByte_last hlast, headerByte_last (s := s.withHdr h) hlast, ← headerComplete_withHdr]
    · rfl
    · rw [hcnt8]; exact hninth b
  · rw [headerByte_take hlast, headerByte_take (s := s.withHdr h) hlast]; rfl

theorem portTurn_hdr_withHdr :
    ∃ h', portTurn headerByte headerShort (s.withHdr h) = (portTurn headerByte headerShort s).withHdr h' := by
  cases hb : s.source.bytes with
  | cons b rest =>
    rw [portTurn_take hb, portTurn_take (s := s.withHdr h) hb]
    exact headerByte_withHdr (s := { s with source := ⟨rest, s.source.eoi⟩ }) hninth b
  | nil =>
    cases he : s.source.eoi with
    | true => rw [portTurn_end hb he, portTurn_end (s := s.withHdr h) hb he]; exact ⟨h, rfl⟩
    | false => rw [portTurn_wait hb he, portTurn_wait (s := s.withHdr h) hb he]; exact ⟨h, rfl⟩

theorem unitStep_otherHdr : ∃ h', unitStep (s.withHdr h) = mapNext (·.withHdr h') (unitStep s) := by
  by_cases hp : s.phase = .hdr
  · by_cases hc : s.hcnt.toNat < 9
    · obtain ⟨h', hturn⟩ := portTurn_hdr_withHdr hninth
      rw [unitStep_hdr hp hc, unitStep_hdr (s := s.withHdr h) hp hc, hturn]
      exact ⟨h', rfl⟩
    · have hstuck : s.stuck := ⟨hp, Nat.not_lt.mp hc⟩
      rw [unitStep_stuck hstuck, unitStep_stuck (s := s.withHdr h) hstuck]
      exact ⟨h, rfl⟩
  · exact ⟨h, unitStep_withHdr hp⟩

/-- The step answers the same outcome, but for the bytes of HDR_BUF. -/
theorem step_otherHdr : ∃ h', step (s.withHdr h) = mapNext (·.withHdr h') (step s) := by
  rcases step_cases s with ⟨hu, -⟩ | ⟨e, rest, hin, hunit, -⟩
  · rw [step_unit hu, step_unit (s := s.withHdr h) hu]
    exact unitStep_otherHdr (s := s.popped) hninth
  · rw [step_cons hin, step_cons (s := s.withHdr h) hin]
    by_cases hreset : e = .reset
    · subst hreset
      exact ⟨Bytes9.zero, rfl⟩
    · exact ⟨h, deliver_withHdr s.popped h hunit hreset⟩

end OtherHeader

/-- Settles O8: only the decoder of nine header bytes reads HDR_BUF, and it does not see the reserved bit, whatever the ninth byte
is. -/
theorem reservedBitNeverExposed : Obligations.ReservedBitNeverExposed := by
  intro s t k hk ht
  have hninth : ∀ b, decodeHeader (setByte9 { s.hdrBuf with b5 := s.hdrBuf.b5 ^^^ k } 8 b) =
      decodeHeader (setByte9 s.hdrBuf 8 b) := fun b => decodeHeader_flipReserved hk (setByte9 s.hdrBuf 8 b)
  obtain ⟨h', hstep⟩ := step_otherHdr hninth
  rw [ht] at hstep
  exact ⟨_, hstep, rfl⟩

end Sys2Proof.Machine

/-! PROOFS (header codec). The fields of a header by the values of its bytes (O6), the two round trips (O7), ENCODE_HEADER (O9),
DECODE_HEADER's run (O39), and who writes the FH registers (O50). -/

namespace Sys2Proof.Machine

/-! ### Values of appended bytes and of single bytes -/

/-- Appending a byte is one more place of a big-endian value (R60). -/
theorem toNat_append_byte {n : Nat} (x : BitVec n) (b : Byte) : (x ++ b).toNat = x.toNat * 256 + b.toNat := by
  rw [BitVec.toNat_append, ← Nat.shiftLeft_add_eq_or_of_lt b.isLt, Nat.shiftLeft_eq]

theorem BE_concat (bs : List Byte) (b : Byte) : BE (bs ++ [b]) = BE bs * 256 + b.toNat := by
  simp only [BE, List.foldl_append, List.foldl_cons, List.foldl_nil]

theorem toNat_byte (b : Byte) : b.toNat = BE [b] := by simp [BE]

theorem toNat_three_bytes (a b c : Byte) : (a ++ b ++ c).toNat = BE [a, b, c] := by
  rw [toNat_append_byte, toNat_append_byte, toNat_byte a, ← BE_concat, ← BE_concat]
  rfl

theorem toNat_four_bytes (a b c d : Byte) : (a ++ b ++ c ++ d).toNat = BE [a, b, c, d] := by
  rw [toNat_append_byte, toNat_three_bytes, ← BE_concat]
  rfl

theorem toNat_extract {n : Nat} (x : BitVec n) (i k : Nat) : (x.extractLsb' i k).toNat = x.toNat / 2 ^ i % 2 ^ k := by
  rw [BitVec.extractLsb'_toNat, Nat.shiftRight_eq_div_pow]

theorem toNat_extract_low {n : Nat} (x : BitVec n) (k : Nat) : (x.extractLsb' 0 k).toNat = x.toNat % 2 ^ k := by
  rw [toNat_extract, Nat.pow_zero, Nat.div_one]

/-- A 0 bit above seven bits does not change their value. -/
theorem toNat_zero_append (x : BitVec 7) : (0#1 ++ x).toNat = x.toNat := by
  rw [BitVec.toNat_append, BitVec.toNat_ofNat, Nat.zero_mod, Nat.zero_shiftLeft, Nat.zero_or]

theorem zero_append_low_bits (b : Byte) : 0#1 ++ b.extractLsb' 0 7 = b &&& 0x7f := by
  apply BitVec.eq_of_toNat_eq
  rw [toNat_zero_append, toNat_extract_low, BitVec.toNat_and]
  exact (Nat.and_two_pow_sub_one_eq_mod b.toNat 7).symm

/-! ### The decoder -/

theorem decodeHeader_length (h : Bytes9) : (decodeHeader h).length.toNat = BE [h.b0, h.b1, h.b2] :=
  toNat_three_bytes ..

/-- The stream ID is the word of the last four bytes without its top bit (R90). -/
theorem decodeHeader_streamID (h : Bytes9) : (decodeHeader h).streamID.toNat = BE [h.b5, h.b6, h.b7, h.b8] % 2 ^ 31 := by
  rw [decodeHeader, BitVec.toNat_setWidth, toNat_four_bytes]

/-- Settles O6: appending bytes is reading them big-endian, and cutting bit 31 off is masking it. -/
theorem headerFieldsFromWire : Obligations.HeaderFieldsFromWire := fun h =>
  ⟨decodeHeader_length h, rfl, rfl,
    (decodeHeader_streamID h).trans (Nat.and_two_pow_sub_one_eq_mod _ 31).symm⟩

/-! ### The encoder -/

section Encode

variable (fh : FrameHeader)

theorem encodeHeader_length :
    BE [(encodeHeader fh).b0, (encodeHeader fh).b1, (encodeHeader fh).b2] = fh.length.toNat := by
  have hlt := fh.length.isLt
  simp only [encodeHeader, BE, List.foldl_cons, List.foldl_nil, toNat_extract]
  omega

/-- Bytes 5 to 7 are the high 24 bits of the stream ID word, whose top bit is 0. -/
theorem encodeHeader_streamID_high :
    BE [(encodeHeader fh).b5, (encodeHeader fh).b6, (encodeHeader fh).b7] = fh.streamID.toNat / 256 := by
  have hlt := fh.streamID.isLt
  simp only [encodeHeader, BE, List.foldl_cons, List.foldl_nil, toNat_zero_append, toNat_extract]
  omega

theorem encodeHeader_streamID_low : (encodeHeader fh).b8.toNat = fh.streamID.toNat % 256 :=
  toNat_extract_low fh.streamID 8

theorem encodeHeader_streamID :
    BE [(encodeHeader fh).b5, (encodeHeader fh).b6, (encodeHeader fh).b7, (encodeHeader fh).b8] = fh.streamID.toNat :=
  calc BE ([(encodeHeader fh).b5, (encodeHeader fh).b6, (encodeHeader fh).b7] ++ [(encodeHeader fh).b8])
    _ = fh.streamID.toNat / 256 * 256 + fh.streamID.toNat % 256 := by
      rw [BE_concat, encodeHeader_streamID_high, encodeHeader_streamID_low]
    _ = fh.streamID.toNat := Nat.div_add_mod' ..

theorem encodeHeader_reservedBit : (encodeHeader fh).b5.getLsbD 7 = false := getLsbD_append_high (Nat.le_refl 7)

theorem decode_encodeHeader : decodeHeader (encodeHeader fh) = fh := by
  have hlength : (decodeHeader (encodeHeader fh)).length = fh.length :=
    BitVec.eq_of_toNat_eq ((decodeHeader_length _).trans (encodeHeader_length fh))
  have hstream : (decodeHeader (encodeHeader fh)).streamID = fh.streamID := by
    apply BitVec.eq_of_toNat_eq
    rw [decodeHeader_streamID, encodeHeader_streamID, Nat.mod_eq_of_lt fh.streamID.isLt]
  calc decodeHeader (encodeHeader fh)
    _ = ⟨(decodeHeader (encodeHeader fh)).length, fh.typ, fh.flags, (decodeHeader (encodeHeader fh)).streamID⟩ := rfl
    _ = fh := by rw [hlength, hstream]

end Encode

/-! ### The round trips -/

theorem extract_three_bytes (a b c : Byte) :
    let w : BitVec 24 := a ++ b ++ c
    w.extractLsb' 16 8 = a ∧ w.extractLsb' 8 8 = b ∧ w.extractLsb' 0 8 = c := by
  simp (disch := decide) only [BitVec.extractLsb'_append_eq_of_le, BitVec.extractLsb'_append_eq_of_add_le,
    BitVec.extractLsb'_eq_self, Nat.reduceSub, and_self]

/-- The stream ID's bytes, packed again: the first loses its top bit (R126). -/
theorem extract_streamID_bytes (a b c d : Byte) :
    let x := (a ++ b ++ c ++ d).setWidth 31
    0#1 ++ x.extractLsb' 24 7 = a &&& 0x7f ∧ x.extractLsb' 16 8 = b ∧ x.extractLsb' 8 8 = c ∧ x.extractLsb' 0 8 = d := by
  obtain ⟨-, hb, hc, hd⟩ := extract_four_bytes a b c d
  simp (disch := decide) only [BitVec.extractLsb'_setWidth_of_le, hb, hc, hd, and_true, ← zero_append_low_bits,
    BitVec.extractLsb'_append_eq_of_le, Nat.reduceSub]

theorem encode_decodeHeader (b : Bytes9) : encodeHeader (decodeHeader b) = { b with b5 := b.b5 &&& 0x7f } := by
  obtain ⟨h0, h1, h2⟩ := extract_three_bytes b.b0 b.b1 b.b2
  obtain ⟨h5, h6, h7, h8⟩ := extract_streamID_bytes b.b5 b.b6 b.b7 b.b8
  rw [encodeHeader, Bytes9.mk.injEq]
  exact ⟨h0, h1, h2, rfl, rfl, h5, h6, h7, h8⟩

/-- Clearing a bit that is 0 changes nothing. -/
theorem and_low_of_top_clear {b : Byte} (h : b.getLsbD 7 = false) : b &&& 0x7f = b := by
  have hlt : 2 * b.toNat < 2 ^ 8 := BitVec.msb_eq_false_iff_two_mul_lt.mp h
  apply BitVec.eq_of_toNat_eq
  rw [← zero_append_low_bits, toNat_zero_append, toNat_extract_low, Nat.mod_eq_of_lt (by omega)]

/-- Settles O7: byte by byte; only the reserved bit is lost. -/
theorem headerRoundTrips : Obligations.HeaderRoundTrips :=
  ⟨decode_encodeHeader, fun b h => by rw [encode_decodeHeader, and_low_of_top_clear h], encode_decodeHeader⟩

/-! ### The two commands -/

/-- Settles O9: the bytes are those of the encoder, and the command ends in its acceptance. -/
theorem encodeHeaderPacksTheRegisters : Obligations.EncodeHeaderPacksTheRegisters := by
  intro s hfree
  refine ⟨encodeHeader s.fh, exec_encodeHeader_free hfree, ?lengthType, ?flagsStream, encodeHeader_streamID_low s.fh,
    encodeHeader_reservedBit s.fh⟩
  case lengthType =>
    calc BE ([(encodeHeader s.fh).b0, (encodeHeader s.fh).b1, (encodeHeader s.fh).b2] ++ [s.fh.typ])
      _ = s.fh.length.toNat * 256 + s.fh.typ.toNat := by rw [BE_concat, encodeHeader_length]
  case flagsStream =>
    calc BE (s.fh.flags :: [(encodeHeader s.fh).b5, (encodeHeader s.fh).b6, (encodeHeader s.fh).b7])
      _ = s.fh.flags.toNat * 256 ^ 3 + s.fh.streamID.toNat / 256 := by rw [BE_cons, encodeHeader_streamID_high]; rfl
      _ = s.fh.flags.toNat * 2 ^ 24 + s.fh.streamID.toNat / 256 := by norm_num

/-- Settles O39: the acceptance step, nine header byte steps, and the header outcome with the ninth. -/
theorem decodeHeaderTakesNineBytes : Obligations.DecodeHeaderTakesNineBytes := by
  intro s v hfree hin hop hlen
  have haccept : step s = .next (startDecodeHeader (State.accept { s with inputs := [] } 2)) := by
    rw [step_commandOf hin, hop]
    exact exec_decodeHeader_free hfree
  rw [run_succ haccept, run_header (s := startDecodeHeader (State.accept { s with inputs := [] } 2)) rfl rfl rfl hlen]
  rfl

/-! ### Who writes the FH registers -/

/-- The ninth header byte writes the FH registers with the decode of HDR_BUF (R138). -/
theorem headerComplete_fh (s : State) : (headerComplete s).fh = decodeHeader (headerComplete s).hdrBuf := by
  rcases headerComplete_cases s with ⟨-, h⟩ | ⟨-, -, h⟩ | ⟨-, -, -, h⟩ | ⟨-, -, -, h⟩
  · rw [h]; rfl
  · rw [h]
  · rw [h]
  · rw [h]

theorem headerByte_fh (b : Byte) (s : State) :
    (headerByte b s).fh = s.fh ∨ (s.hcnt.toNat = 8 ∧ (headerByte b s).fh = decodeHeader (headerByte b s).hdrBuf) := by
  by_cases hlast : s.hcnt + 1 = 9
  · rw [headerByte_last hlast]
    exact .inr ⟨by bv_omega, headerComplete_fh _⟩
  · rw [headerByte_take hlast]
    exact .inl rfl

theorem unitStep_fh {s t : State} (h : unitStep s = .next t) (hfh : t.fh ≠ s.fh) :
    s.phase = .hdr ∧ s.hcnt.toNat = 8 ∧ t.fh = decodeHeader t.hdrBuf := by
  rcases unitStep_cases h with rfl | ⟨hp, -, ⟨b, rest, -, rfl⟩ | ⟨-, -, rfl⟩⟩ | ⟨-, ⟨b, rest, -, rfl⟩ | ⟨-, -, rfl⟩⟩ |
    ⟨-, o, rfl, -⟩
  · exact absurd rfl hfh
  · exact ⟨hp, (headerByte_fh b { s with source := ⟨rest, s.source.eoi⟩ }).resolve_left hfh⟩
  · exact absurd rfl hfh
  · rw [payloadByteIn_eq] at hfh
    exact absurd rfl hfh
  · exact absurd rfl hfh
  · exact absurd rfl hfh

/-- Only FH_LEN, FH_TF and FH_SID are written into the FH registers (R45). -/
theorem State.regWrite_fh {s : State} {r : Reg} {v : Word} (h : (s.regWrite r v).fh ≠ s.fh) :
    s.phase.busy = false ∧ r ∈ [Reg.fhLen, .fhTf, .fhSid] := by
  refine ⟨?free, ?written⟩
  case free =>
    rcases s.regWrite_cases r v with ⟨hfree, -⟩ | ⟨-, hw⟩ | hw
    · exact hfree
    · exact absurd (congrArg State.fh hw) h
    · exact absurd (congrArg State.fh hw) h
  case written =>
    cases r with
    | fhLen | fhTf | fhSid => decide
    | _ => exact absurd rfl h

theorem regAt_fh {off : Nat} {r : Reg} (h : regAt off = some r) (hr : r ∈ [Reg.fhLen, .fhTf, .fhSid]) :
    off = 0x08 ∨ off = 0x0C ∨ off = 0x10 :=
  regAt_property (P := fun x => x.2 ∈ [Reg.fhLen, .fhTf, .fhSid] → x.1 = 0x08 ∨ x.1 = 0x0C ∨ x.1 = 0x10) (by decide) h hr

/-- Of the events only a host write to one of them in IDLE or DONE and reset change an FH register (R45). -/
theorem deliver_fh {s t : State} {e : Event} (h : deliver e s = .next t) (hunit : e ≠ .unitTurn) (hfh : t.fh ≠ s.fh) :
    e = .reset ∨ (s.phase.busy = false ∧ ∃ off v, e = .regWrite off v ∧ (off = 0x08 ∨ off = 0x0C ∨ off = 0x10)) := by
  rcases deliver_cases h hunit with rfl | ⟨r, rfl⟩ | ⟨a, v, -, -, -, rfl⟩ | ⟨x, rfl⟩ | ⟨he, -⟩ | ⟨off, v, r, he, hr, -, rfl⟩ |
    ⟨v, -, hc⟩
  · exact absurd rfl hfh
  · exact absurd rfl hfh
  · exact absurd rfl hfh
  · exact absurd rfl hfh
  · exact .inl he
  · obtain ⟨hfree, hwritten⟩ := State.regWrite_fh hfh
    exact .inr ⟨hfree, off, v, he, regAt_fh hr hwritten⟩
  · exact absurd (congrArg State.fh hc.frame) hfh

/-- Settles O50: by what the unit's turn and any other event do to the FH registers. -/
theorem headerRegistersWrittenOnlyByDecodeAndHost : Obligations.HeaderRegistersWrittenOnlyByDecodeAndHost := by
  intro s t ht hfh
  rcases step_next_cases ht with ⟨hu, h⟩ | ⟨e, rest, hin, hunit, h⟩
  · exact .inl ⟨hu, unitStep_fh (s := s.popped) h hfh⟩
  · rcases deliver_fh h hunit hfh with rfl | ⟨hfree, off, v, rfl, hoff⟩
    · exact .inr (.inr ⟨rest, hin⟩)
    · exact .inr (.inl ⟨hfree, off, v, rest, hin, hoff⟩)

end Sys2Proof.Machine

/-! PROOFS (frame reader). The byte steps and the end of input (O28, O29, O30), when the unit waits (O31), when a byte leaves the
source (O32), what the targets leave alone (O26), and that no outcome is latched (O14). -/

namespace Sys2Proof.Machine

/-! ### What a byte step does -/

section HeaderEnd

variable {s : State}

/-- The ninth byte ends DECODE_HEADER (R138). -/
theorem headerComplete_decode (h2 : s.curCmd = 2) :
    headerComplete s = State.ends { s with fh := decodeHeader s.hdrBuf } { resKind := .header } := if_pos h2

variable (h2 : s.curCmd ≠ 2)
include h2

theorem headerComplete_above (hcap : s.params.payloadCap.toNat < (decodeHeader s.hdrBuf).length.toNat) :
    headerComplete s = { s with fh := decodeHeader s.hdrBuf } := (if_neg h2).trans (if_pos hcap)

theorem headerComplete_empty (h0 : (decodeHeader s.hdrBuf).length = 0) :
    headerComplete s = { s with fh := decodeHeader s.hdrBuf, phase := .exec } := by
  have hcap : ¬ s.params.payloadCap.toNat < (decodeHeader s.hdrBuf).length.toNat := by simp [h0]
  exact (if_neg h2).trans ((if_neg hcap).trans (if_pos h0))

theorem headerComplete_payload (hfits : (decodeHeader s.hdrBuf).length.toNat ≤ s.params.payloadCap.toNat)
    (h0 : (decodeHeader s.hdrBuf).length ≠ 0) :
    headerComplete s = { s with fh := decodeHeader s.hdrBuf, phase := .pay, pcnt := 0 } :=
  (if_neg h2).trans ((if_neg (Nat.not_lt.mpr hfits)).trans (if_neg h0))

end HeaderEnd

theorem inReady_hdr {s : State} (hp : s.phase = .hdr) (hc : s.hcnt.toNat < 9) : s.inReady = true :=
  (inReady_iff s).mpr ⟨.inl hp, fun hs => Nat.not_le.mpr hc hs.2⟩

theorem inReady_pay {s : State} (hp : s.phase = .pay) : s.inReady = true :=
  (inReady_iff s).mpr ⟨.inr hp, fun hs => Phase.noConfusion (hp.symm.trans hs.1)⟩

section ByteSteps

variable {s : State} {b : Byte} {rest : List Byte} (hu : s.unitMoves = true)
include hu

theorem step_hdr (hp : s.phase = .hdr) (hc : s.hcnt.toNat < 9) :
    step s = .next (portTurn headerByte headerShort s.popped) := by
  rw [step_unit hu, unitStep_hdr (s := s.popped) hp hc]

theorem step_pay (hp : s.phase = .pay) : step s = .next (portTurn payloadByteIn payloadShort s.popped) := by
  rw [step_unit hu, unitStep_pay (s := s.popped) hp]

theorem step_headerByte (hp : s.phase = .hdr) (hc : s.hcnt.toNat < 9) (hb : s.source.bytes = b :: rest) :
    step s = .next (headerByte b { s.popped with source := ⟨rest, s.source.eoi⟩ }) := by
  rw [step_hdr hu hp hc, portTurn_take (s := s.popped) hb, State.popped_source]

theorem step_payloadByte (hp : s.phase = .pay) (hb : s.source.bytes = b :: rest) :
    step s = .next (payloadByteIn b { s.popped with source := ⟨rest, s.source.eoi⟩ }) := by
  rw [step_pay hu hp, portTurn_take (s := s.popped) hb, State.popped_source]

end ByteSteps

/-- Settles O28: up to eight bytes are only collected, and the ninth completes the header in one of four ways. -/
theorem headerByteStep : Obligations.HeaderByteStep := by
  intro s b rest hu hp hc hb q fh q'
  have hstep := step_headerByte hu hp hc hb
  have ninth : s.hcnt.toNat = 8 → step s = .next (headerComplete q) := fun h8 => by
    have hlast : s.hcnt + 1 = 9 := by bv_omega
    exact hstep.trans (congrArg Host.Outcome.next (headerByte_last hlast))
  refine ⟨inReady_hdr hp hc, fun h8 => ?collect, fun h8 h2 => ?decode, fun h8 h2 hcap => ?above, fun h8 h2 h0 => ?empty,
    fun h8 h2 hfits h0 => ?payload⟩
  case collect =>
    have hmore : s.hcnt + 1 ≠ 9 := by bv_omega
    exact hstep.trans (congrArg Host.Outcome.next (headerByte_take hmore))
  case decode => rw [ninth h8, headerComplete_decode (s := q) h2]
  case above => rw [ninth h8, headerComplete_above (s := q) h2 hcap]
  case empty => rw [ninth h8, headerComplete_empty (s := q) h2 h0]
  case payload => rw [ninth h8, headerComplete_payload (s := q) h2 hfits h0]

/-- Settles O29: the byte is written at PCNT, and a write keeps every other address. -/
theorem payloadByteStep : Obligations.PayloadByteStep := by
  intro s b rest hu hp hb
  refine ⟨inReady_pay hp, _, step_payloadByte hu hp hb, ?_⟩
  rw [payloadByteIn_eq]
  refine ⟨rfl, ?phase, State.writePayload_same s s.pcnt.toNat b, fun a ha => State.writePayload_other s b ha⟩
  case phase => simp only [State.popped_pcnt, State.popped_fh, State.popped_phase, hp]

/-! ### A byte step does not look at what stands behind its byte -/

theorem headerComplete_withSource (s : State) (x : Source) :
    headerComplete { s with source := x } = { headerComplete s with source := x } := by
  unfold headerComplete
  dsimp only
  split_ifs <;> rfl

theorem headerByte_withSource (b : Byte) (s : State) (x : Source) :
    headerByte b { s with source := x } = { headerByte b s with source := x } := by
  by_cases hlast : s.hcnt + 1 = 9
  · rw [headerByte_last hlast, headerByte_last (s := { s with source := x }) hlast, ← headerComplete_withSource]
  · rw [headerByte_take hlast, headerByte_take (s := { s with source := x }) hlast]

theorem payloadByteIn_withSource (b : Byte) (s : State) (x : Source) :
    payloadByteIn b { s with source := x } = { payloadByteIn b s with source := x } := by
  rw [payloadByteIn_eq, payloadByteIn_eq]
  rfl

/-- With `in_ready` 1 the unit's step takes the first byte offered, and what else it does depends neither on the bytes behind it
nor on `in_eoi` (R136, R140, R267). -/
theorem step_takes_byte {s : State} (hu : s.unitMoves = true) (hr : s.inReady = true) (b : Byte) :
    ∃ t : State, ∀ rest v, step { s with source := ⟨b :: rest, v⟩ } = .next { t with source := ⟨rest, v⟩ } := by
  obtain ⟨hp | hp, hs⟩ := (inReady_iff s).mp hr
  · have hc : s.hcnt.toNat < 9 := Nat.not_le.mp fun h => hs ⟨hp, h⟩
    refine ⟨headerByte b s.popped, fun rest v => ?_⟩
    rw [← headerByte_withSource]
    exact step_headerByte (s := { s with source := ⟨b :: rest, v⟩ }) hu hp hc rfl
  · refine ⟨payloadByteIn b s.popped, fun rest v => ?_⟩
    rw [← payloadByteIn_withSource]
    exact step_payloadByte (s := { s with source := ⟨b :: rest, v⟩ }) hu hp rfl

/-- The same for the bytes the source holds. -/
theorem step_takes_offered {s : State} (hu : s.unitMoves = true) (hr : s.inReady = true) {b : Byte} {rest : List Byte}
    (hb : s.source.bytes = b :: rest) :
    ∃ t, step s = .next t ∧ t.source.bytes = rest ∧
      ∀ v, step { s with source := ⟨b :: rest, v⟩ } = .next { t with source := ⟨rest, v⟩ } := by
  obtain ⟨t, ht⟩ := step_takes_byte hu hr b
  have hs := ht rest s.source.eoi
  rw [← hb] at hs
  exact ⟨_, hs, rfl, ht rest⟩

/-! ### End of input, and waiting -/

/-- Settles O30: with no byte offered the port's turn is the end of input, and a byte step does not look at `in_eoi`. -/
theorem endOfInputOutcomes : Obligations.EndOfInputOutcomes := by
  intro s hu
  refine ⟨fun hp hc hsrc => ?header, fun hp hsrc => ?payload, fun b rest v hr hb => ?byteFirst⟩
  case header =>
    rw [step_hdr hu hp hc, portTurn_end (s := s.popped) (congrArg Source.bytes hsrc) (congrArg Source.eoi hsrc)]
    rfl
  case payload =>
    rw [step_pay hu hp, portTurn_end (s := s.popped) (congrArg Source.bytes hsrc) (congrArg Source.eoi hsrc)]
    rfl
  case byteFirst =>
    obtain ⟨t, ht, hrest, hany⟩ := step_takes_offered hu hr hb
    exact ⟨t, ht, hrest, hany v⟩

/-- Settles O31: the unit rests in IDLE and DONE, and the port's turn waits for the source. -/
theorem theUnitWaits : Obligations.TheUnitWaits := by
  intro s hu
  refine ⟨fun hp => ?rest, fun hp hb he => ?silent⟩
  case rest => rw [step_unit hu, unitStep_rest (s := s.popped) hp]
  case silent =>
    rcases hp with ⟨hp, hc⟩ | hp
    · rw [step_hdr hu hp hc, portTurn_wait (s := s.popped) hb he]
    · rw [step_pay hu hp, portTurn_wait (s := s.popped) hb he]

/-! ### When a byte leaves the source (R137) -/

/-- The unit's turn leaves the source alone or takes its first byte, with `in_ready` 1. -/
theorem unitStep_source {s t : State} (h : unitStep s = .next t) :
    t.source = s.source ∨ (s.inReady = true ∧ s.source.bytes ≠ []) := by
  rcases unitStep_cases h with rfl | ⟨hp, hc, ⟨b, rest, hb, -⟩ | ⟨-, -, rfl⟩⟩ | ⟨hp, ⟨b, rest, hb, -⟩ | ⟨-, -, rfl⟩⟩ |
    ⟨-, o, rfl, -⟩
  · exact .inl rfl
  · exact .inr ⟨inReady_hdr hp hc, hb ▸ List.cons_ne_nil b rest⟩
  · exact .inl rfl
  · exact .inr ⟨inReady_pay hp, hb ▸ List.cons_ne_nil b rest⟩
  · exact .inl rfl
  · exact .inl rfl

theorem hostRegWrite_source {off : Nat} {v : Word} {s t : State} (h : hostRegWrite off v s = .next t) :
    t.source = s.source := by
  unfold hostRegWrite at h
  split at h
  · cases h
  · split at h
    · obtain ⟨t', ht', hc⟩ := exec_ctrl s.params.types v s
      obtain rfl := Host.Outcome.next.inj (ht'.symm.trans h)
      rw [hc.frame]
    · next r _ _ =>
      obtain rfl := Host.Outcome.next.inj h
      obtain ⟨fh, q, hq⟩ := s.regWrite_frame r v
      rw [hq]
    · cases h
      rfl

theorem hostRegRead_source {off : Nat} {s t : State} (h : hostRegRead off s = .next t) : t.source = s.source := by
  unfold hostRegRead at h
  split at h
  · cases h
  · cases h
    rfl

theorem hostPayloadRead_source {a : Nat} {s t : State} (h : hostPayloadRead a s = .next t) : t.source = s.source := by
  unfold hostPayloadRead at h
  split at h
  · cases h
  · cases h
    rfl

theorem hostPayloadWrite_source {a : Nat} {v : Byte} {s t : State} (h : hostPayloadWrite a v s = .next t) :
    t.source = s.source := by
  unfold hostPayloadWrite at h
  split at h
  · cases h
  · split at h
    · cases h; rfl
    · cases h; rfl

/-- Of the events but the unit's turn only an offer changes the source's bytes. -/
theorem deliver_source {s t : State} {e : Event} (h : deliver e s = .next t) (hunit : e ≠ .unitTurn)
    (hoffer : ∀ b, e ≠ .offer b) : t.source.bytes = s.source.bytes := by
  cases e with
  | regWrite off v => exact congrArg Source.bytes (hostRegWrite_source h)
  | regRead off => exact congrArg Source.bytes (hostRegRead_source h)
  | payloadWrite a v => exact congrArg Source.bytes (hostPayloadWrite_source h)
  | payloadRead a => exact congrArg Source.bytes (hostPayloadRead_source h)
  | offer b => exact absurd rfl (hoffer b)
  | setEoi v => cases h; rfl
  | reset => cases h; rfl
  | unitTurn => exact absurd rfl hunit

/-- The unit's step with no byte to take, or with `in_ready` 0, keeps the source's bytes. -/
theorem step_unit_source {s t : State} (ht : step s = .next t) (hu : s.unitMoves = true)
    (hno : s.inReady = false ∨ s.source.bytes = []) : t.source.bytes = s.source.bytes := by
  rw [step_unit hu] at ht
  rcases unitStep_source ht with h | ⟨hr, hne⟩
  · exact congrArg Source.bytes h
  · rcases hno with hno | hno
    · exact absurd (hr.symm.trans hno) Bool.noConfusion
    · exact absurd hno hne

/-- Settles O32: by the byte steps, by what the unit's turn does else, and by what the other events do. -/
theorem bytesLeaveOnlyByByteSteps : Obligations.BytesLeaveOnlyByByteSteps := by
  intro s t ht
  refine ⟨fun hp => ?notReady, fun hu hr b rest hb => ?take, fun hu hb => ?nothing, fun hno hoffer => ?keep,
    fun b hin => ?offer⟩
  case notReady => rcases hp with hp | hp | hp <;> simp [State.inReady, hp]
  case take =>
    obtain ⟨u, hstep, hrest, -⟩ := step_takes_offered hu hr hb
    obtain rfl := Host.Outcome.next.inj (hstep.symm.trans ht)
    exact hrest
  case nothing => exact (step_unit_source ht hu (.inr hb)).trans hb
  case keep =>
    rcases step_next_cases ht with ⟨hu, -⟩ | ⟨e, rest, hin, hunit, h⟩
    · exact step_unit_source ht hu (.inl (hno.resolve_left (hu ▸ Bool.noConfusion)))
    · exact deliver_source (s := s.popped) h hunit fun b he => hoffer b (by rw [hin, he]; rfl)
  case offer =>
    obtain ⟨rest, hin⟩ := List.head?_eq_some_iff.mp hin
    rw [step_cons hin] at ht
    cases ht
    rfl

/-! ### The targets and the commands do not look at the result fields -/

/-- Settles O26: a target raises one outcome and does nothing else. -/
theorem frameTargetsFrame : Obligations.FrameTargetsFrame := by
  intro s t u i hi ht
  obtain ⟨o, ho, -⟩ := exec_target (s := s) hi
  obtain rfl := Host.Outcome.next.inj (ho.symm.trans ht)
  exact ⟨rfl, rfl, rfl, rfl, rfl, fun _ => rfl⟩

/-- Accepting a command clears the result fields and CMD_REJECTED, so it does not matter what they held (R43). -/
theorem State.command_clears {s : State} (hfree : s.phase.busy = false) (op : BitVec 3) (start : State → State)
    (r : ResultFields) (b : Bool) :
    State.command { s with res := r, cmdRejected := b } op start = s.command op start := by
  rw [State.command_free hfree, State.command_free (s := { s with res := r, cmdRejected := b }) hfree]
  rfl

/-- Settles O14: acceptance clears the result fields, and raising an outcome overwrites them. -/
theorem noErrorIsLatched : Obligations.NoErrorIsLatched := by
  refine fun s r => ⟨fun hfree i hi b => ?commands, fun t i hi => ?targets⟩
  case commands =>
    have clears := fun op start => congrArg (Host.Outcome.next (φ := Fault) (ρ := Refusal))
      (State.command_clears hfree op start r b)
    simp only [List.mem_cons, List.not_mem_nil, or_false] at hi
    rcases hi with rfl | rfl | rfl | rfl
    · exact clears 1 startReadFrame
    · exact clears 2 startDecodeHeader
    · exact clears 3 startParse
    · exact clears 4 startEncodeHeader
  case targets =>
    simp only [frameTargets, List.mem_cons, List.not_mem_nil, or_false] at hi
    rcases hi with rfl | rfl | rfl | rfl | rfl | rfl | rfl | rfl | rfl | rfl | rfl <;> rfl

end Sys2Proof.Machine

/-! PROOFS (frame reader). The EXEC step and the commands that reach it: one step (O35), PARSE (O36), and READ_FRAME of any finite
byte sequence (O37). -/

namespace Sys2Proof.Machine

/-- Settles O35: the dispatcher's target raises the pure form's outcome. -/
theorem execStepIsParseFrame : Obligations.ExecStepIsParseFrame := by
  intro s hu hp
  rw [step_unit hu, unitStep_exec (s := s.popped) hp, execTurn_eq_parseFrame]
  rfl

/-- Settles O36: the acceptance, then the EXEC step. -/
theorem parseCommandRuns : Obligations.ParseCommandRuns := by
  intro s v hfree hin hop hfits
  have haccept : step s = .next { State.accept { s with inputs := [] } 3 with phase := .exec } := by
    rw [step_commandOf hin, hop]
    exact exec_parse_fits (s := { s with inputs := [] }) hfree hfits
  rw [run_succ haccept, run_succ (execStepIsParseFrame _ rfl rfl)]
  rfl

/-! ### The pure form by how far the bytes reach (R149) -/

section PureForm

variable {p : Params} {bs : List Byte}

theorem readFrame_headerShort (h : bs.length < 9) : readFrame p bs = .transport .hdrShort bs.length 9 := if_pos h

theorem consumed_headerShort (h : bs.length < 9) : consumed bs = bs.length := if_pos h

variable (h9 : 9 ≤ bs.length)
include h9

theorem readFrame_payloadShort (h : bs.length - 9 < (headOf bs).length.toNat) :
    readFrame p bs = .transport .payloadShort (bs.length - 9) (headOf bs).length.toNat :=
  (if_neg (Nat.not_lt.mpr h9)).trans (if_pos h)

theorem readFrame_whole (h : (headOf bs).length.toNat ≤ bs.length - 9) :
    readFrame p bs = parseFrame p (headOf bs) (fun a => bs.getD (9 + a) 0) :=
  (if_neg (Nat.not_lt.mpr h9)).trans (if_neg (Nat.not_lt.mpr h))

/-- A sequence with a whole header loses it and the part of the payload that is there. -/
theorem consumed_of_header : consumed bs = 9 + min (headOf bs).length.toNat (bs.length - 9) := by
  unfold consumed
  split_ifs <;> omega

end PureForm

/-! ### READ_FRAME to its end -/

/-- The state before READ_FRAME's last step: the bytes that the pure form consumes are taken, the FH registers are written when the
header is whole, and only the frame reader's own registers have changed. -/
structure Acquired (s t : State) : Prop where
  frame : t = { s with
    phase := t.phase, hdrBuf := t.hdrBuf, hcnt := t.hcnt, pcnt := t.pcnt, fh := t.fh, payload := t.payload, source := t.source }
  source : t.source.bytes = s.source.bytes.drop (consumed s.source.bytes)
  header : 9 ≤ s.source.bytes.length → t.fh = headOf s.source.bytes
  noHeader : s.source.bytes.length < 9 → t.fh = s.fh

/-- When the bytes end inside the payload, the next step ends the command with PAYLOAD_SHORT (R141). -/
theorem PayloadTaken.short {s t : State} {j : Nat} (h : PayloadTaken s j t) (hin : s.inputs = []) (he : s.source.eoi = true)
    (hj : j < s.fh.length.toNat) (hend : s.source.bytes.length ≤ j) :
    Machine.step t = .next (t.finish (.transport .payloadShort j s.fh.length.toNat)) := by
  have hlt := s.fh.length.isLt
  have hcnt : t.pcnt.toNat = j := by rw [h.pcnt, BitVec.toNat_ofNat, Nat.mod_eq_of_lt (by omega)]
  have hpay : t.phase = .pay := h.phase.trans (if_neg fun e => by rw [e] at hcnt; omega)
  have hnone : t.inputs = [] := by rw [h.frame]; exact hin
  have hfh : t.fh = s.fh := by rw [h.frame]
  have hb : t.source.bytes = [] := by rw [h.source]; exact List.drop_eq_nil_of_le hend
  have heoi : t.source.eoi = true := by rw [h.source]; exact he
  rw [step_of_no_event hnone, unitStep_pay hpay, portTurn_end hb heoi, payloadShort, hcnt, hfh]

/-- The payload's bytes stand behind the nine of the header. -/
theorem headerTaken_getD (s : State) (a : Nat) : s.headerTaken.source.bytes.getD a 0 = s.source.bytes.getD (9 + a) 0 := by
  simp only [State.headerTaken, State.collected, List.getD_eq_getElem?_getD, List.getElem?_drop]

section Acquire

variable {s : State} (hin : s.inputs = []) (hp : s.phase = .hdr) (h0 : s.hcnt = 0) (he : s.source.eoi = true)
include hin hp h0

/-- Nine steps take the header of a frame that fits. -/
theorem run_headerTaken (hcmd : s.curCmd ≠ 2) (hpcnt : s.pcnt = 0) (h9 : 9 ≤ s.source.bytes.length)
    (hfits : (headOf s.source.bytes).length.toNat ≤ s.params.payloadCap.toNat) : core.run 9 s = .next s.headerTaken := by
  rw [run_header hin hp h0 h9,
    headerComplete_of_fits (q := s.collected (headBytes9 s.source.bytes) 9) hcmd hpcnt hfits]
  rfl

include he

/-- Fewer than nine bytes are collected, and then the end of input counts (R138). -/
theorem run_headerShort (hshort : s.source.bytes.length < 9) :
    ∃ k t, core.run k s = .next (t.finish (readFrame s.params s.source.bytes)) ∧ Acquired s t := by
  obtain ⟨h, hrun, -⟩ := run_collect hin hp h0 (Nat.le_of_lt_succ hshort) (Nat.le_refl _)
  have hcnt : (s.collected h s.source.bytes.length).hcnt.toNat = s.source.bytes.length := by
    simp only [State.collected, BitVec.toNat_ofNat]
    omega
  have hnone : (s.collected h s.source.bytes.length).source.bytes = [] := List.drop_length
  refine ⟨_, s.collected h s.source.bytes.length, run_step hrun ?_, rfl, ?_, fun h9 => absurd h9 (Nat.not_le.mpr hshort),
    fun _ => rfl⟩
  · rw [step_of_no_event (s := s.collected h _) hin, unitStep_hdr (s := s.collected h _) hp (hcnt.trans_lt hshort),
      portTurn_end hnone he, headerShort, hcnt, readFrame_headerShort hshort]
  · rw [consumed_headerShort hshort]
    rfl

/-- With a whole header the payload is taken as far as it goes, and then the EXEC step or the end of input is due. -/
theorem run_headerWhole (hcmd : s.curCmd ≠ 2) (hpcnt : s.pcnt = 0) (h9 : 9 ≤ s.source.bytes.length)
    (hfits : (headOf s.source.bytes).length.toNat ≤ s.params.payloadCap.toNat) :
    ∃ k t, core.run k s = .next (t.finish (readFrame s.params s.source.bytes)) ∧ Acquired s t := by
  have hlen : s.headerTaken.source.bytes.length = s.source.bytes.length - 9 := List.length_drop
  obtain ⟨t, hrun, ht⟩ := run_payload (s := s.headerTaken) hin hpcnt rfl
    (j := min (headOf s.source.bytes).length.toNat (s.source.bytes.length - 9)) (Nat.min_le_left _ _)
    (hlen ▸ Nat.min_le_right _ _)
  have hlast : step t = .next (t.finish (readFrame s.params s.source.bytes)) := by
    rcases Nat.lt_or_ge (s.source.bytes.length - 9) (headOf s.source.bytes).length.toNat with hshort | hwhole
    · rw [Nat.min_eq_right (Nat.le_of_lt hshort)] at ht
      rw [ht.short hin he hshort (Nat.le_of_eq hlen), readFrame_payloadShort h9 hshort]
      rfl
    · rw [Nat.min_eq_left hwhole] at ht
      have hexec := PayloadTaken.exec (s := s.headerTaken) ht hin
      simp only [headerTaken_getD] at hexec
      rw [hexec, readFrame_whole h9 hwhole]
      rfl
  refine ⟨_, t, run_step ((run_add _ (run_headerTaken hin hp h0 hcmd hpcnt h9 hfits)).trans hrun) hlast, ?frame, ?source,
    fun _ => ?header, fun h => absurd h9 (Nat.not_le.mpr h)⟩
  case frame => rw [ht.frame]; rfl
  case source =>
    rw [ht.source, consumed_of_header h9, ← List.drop_drop]
    rfl
  case header => rw [ht.frame]; rfl

end Acquire

/-- Settles O37: the acceptance step, and then the run by whether the header is whole. -/
theorem readFrameRefinesThePureForm : Obligations.ReadFrameRefinesThePureForm := by
  intro s v hfree hin hop he hfits
  have haccept : step s = .next (startReadFrame (State.accept { s with inputs := [] } 1)) := by
    rw [step_commandOf hin, hop]
    exact exec_readFrame_free hfree
  have hcmd : (1 : BitVec 3) ≠ 2 := by decide
  obtain ⟨k, t, hrun, ht⟩ : ∃ k t,
      core.run k (startReadFrame (State.accept { s with inputs := [] } 1)) =
        .next (t.finish (readFrame s.params s.source.bytes)) ∧
      Acquired (startReadFrame (State.accept { s with inputs := [] } 1)) t := by
    rcases Nat.lt_or_ge s.source.bytes.length 9 with hshort | h9
    · exact run_headerShort rfl rfl rfl he hshort
    · exact run_headerWhole rfl rfl rfl he hcmd rfl h9 (hfits h9)
  have hparams : t.params = s.params := by rw [ht.frame]; rfl
  refine ⟨k + 1, _, (run_succ haccept k).trans hrun, rfl, ?res, ht.source, ht.header, ht.noHeader, ?enc, ?sqId, hparams,
    ?cmdRejected⟩
  case res => rw [State.finish_res, hparams]
  case enc => rw [State.finish_enc, ht.frame]; rfl
  case sqId => rw [State.finish_sqId, ht.frame]; rfl
  case cmdRejected => rw [State.finish_cmdRejected, ht.frame]; rfl

end Sys2Proof.Machine

/-! PROOFS (Data and Headers). PARSE_DATA (O15) and PARSE_HEADERS (O16) in every outcome, and the frame fields after an error
outcome of any parser (O23). -/

namespace Sys2Proof.Machine

/-! ### After an error outcome -/

/-- Only a frame outcome has a frame kind or frame fields (R165, R236). -/
theorem encodeOutcome_frame_empty {p : Params} {o : CommandOutcome} (h : (encodeOutcome p o).resKind ≠ .frame) :
    (encodeOutcome p o).frame = {} ∧ (encodeOutcome p o).frameKind = .none := by
  cases o with
  | frame kind fields => exact absurd rfl h
  | header | encoded | connErr | streamErr | transport => exact ⟨rfl, rfl⟩

/-- Settles O23: a target raises one outcome, and an error outcome is encoded without frame fields. -/
theorem errorWritesNoFrameField : Obligations.ErrorWritesNoFrameField := by
  intro s t u i hi ht herr
  obtain ⟨o, hexec, -⟩ := exec_target (s := s) hi
  obtain rfl := Host.Outcome.next.inj (hexec.symm.trans ht)
  have hne : (encodeOutcome s.params o).resKind ≠ .frame := by
    rcases herr with h | h | h <;> exact fun hframe => ResKind.noConfusion (h.symm.trans hframe)
  obtain ⟨hframe, hkind⟩ := encodeOutcome_frame_empty hne
  exact ⟨hframe, hkind, rfl⟩

/-! ### The flags a parser does not test (R89) -/

section Flags

variable {m f : Byte}

/-- A mask that covers a flag still does with more bits set. -/
theorem or_covers_left (h : m &&& f = f) (k : Byte) : (m ||| k) &&& f = f := by
  rw [BitVec.and_or_distrib_right, h]
  ext i
  simp +contextual

theorem or_covers_right (k : Byte) (h : m &&& f = f) : (k ||| m) &&& f = f := by
  rw [BitVec.or_comm, or_covers_left h]

end Flags

/-- A parser that answers alike for two flag bytes ends its instruction with the same result fields. -/
theorem sameResult_withFlags {i : Instr} {parser : Params → FrameHeader → (Nat → Byte) → CommandOutcome}
    (hexec : ∀ s, exec i s = .next (s.finish (parser s.params s.fh s.payloadByte))) {s : State} {f : Byte}
    (hsame : parser s.params { s.fh with flags := f } s.payloadByte = parser s.params s.fh s.payloadByte) :
    ∃ r, exec i s = .next (s.ends r) ∧ exec i (s.withFlags f) = .next ((s.withFlags f).ends r) := by
  refine ⟨_, hexec s, (hexec (s.withFlags f)).trans ?_⟩
  rw [← hsame]
  rfl

section FlagCongr

variable {p : Params} {fh : FrameHeader} {f : Byte} (rd : Nat → Byte)
  (hpadded : hasFlag f p.flags.padded = hasFlag fh.flags p.flags.padded)
  (hended : hasFlag f p.flags.endStream = hasFlag fh.flags p.flags.endStream)

include hpadded

/-- The padding decoder tests PADDED only (R161). -/
theorem padDecode_congr_flags (c : Cursor) : padDecode p rd f c = padDecode p rd fh.flags c := by
  rw [padDecode, padDecode, hpadded]

include hended

theorem parseData_congr_flags : parseData p { fh with flags := f } rd = parseData p fh rd := by
  simp only [parseData, padDecode_congr_flags rd hpadded, hended]

theorem parseHeaders_congr_flags (hprio : hasFlag f p.flags.priority = hasFlag fh.flags p.flags.priority)
    (hheaders : hasFlag f p.flags.endHeaders = hasFlag fh.flags p.flags.endHeaders) :
    parseHeaders p { fh with flags := f } rd = parseHeaders p fh rd := by
  simp only [parseHeaders, headersPrio, padDecode_congr_flags rd hpadded, hended, hprio, hheaders]

end FlagCongr

/-! ### The padding and priority decoders by where they start (R161, R162) -/

/-- The exclusive flag is the top bit of the word's first byte (R91). -/
theorem readU32at_top (rd : Nat → Byte) (a : Nat) : (readU32at rd a).getLsbD 31 = (rd a).getLsbD 7 := by
  have hword : readU32at rd a = rd a ++ rd (a + 1) ++ rd (a + 2) ++ rd (a + 3) :=
    BitVec.eq_of_toNat_eq (by rw [readU32at, ← toNat_four_bytes, BitVec.ofNat_toNat, BitVec.setWidth_eq])
  rw [hword, getLsbD_append_high (by decide), getLsbD_append_high (by decide), getLsbD_append_high (by decide)]

/-- A stream ID is the word without its top bit (R90). -/
theorem readU32at_low (rd : Nat → Byte) (a : Nat) :
    (readU32at rd a).setWidth 31 = BitVec.ofNat 31 (BE [rd a, rd (a + 1), rd (a + 2), rd (a + 3)]) :=
  BitVec.setWidth_ofNat_of_le (by decide) _

section Decoders

variable {p : Params} {rd : Nat → Byte} {flags : Byte} {n : BitVec 24} {c : Cursor}

/-- The padding decoder at the start of a payload that is long enough for it. -/
theorem padDecode_start (h : (if hasFlag flags p.flags.padded then 1 else 0) ≤ n.toNat) :
    padDecode p rd flags (Cursor.start n) =
      .ok ⟨hasFlag flags p.flags.padded, BitVec.ofNat 8 (if hasFlag flags p.flags.padded then (rd 0).toNat else 0),
        ⟨if hasFlag flags p.flags.padded then 1 else 0, n.toNat⟩⟩ := by
  cases hpad : hasFlag flags p.flags.padded with
  | false => exact padDecode_unpadded hpad
  | true =>
    rw [hpad, if_pos rfl] at h
    have hbyte : BitVec.ofNat 8 (rd 0).toNat = rd 0 := (BitVec.ofNat_toNat 8 _).trans (BitVec.setWidth_eq _)
    have hrem : ¬ (Cursor.start n).remaining < 1 := Nat.not_lt.mpr h
    rw [padDecode_padded hpad hrem, if_pos rfl, if_pos rfl, hbyte]
    rfl

theorem padDecode_start_short (hpad : hasFlag flags p.flags.padded = true) (h0 : n.toNat = 0) :
    padDecode p rd flags (Cursor.start n) = .error (.transport .fieldShort 0 1) := by
  have hrem : (Cursor.start n).remaining = 0 := h0
  rw [padDecode_short hpad (Nat.lt_one_iff.mpr hrem), hrem]

/-- A pad length is a byte. -/
theorem toNat_ofNat_pad (b : Bool) (x : Byte) :
    (BitVec.ofNat 8 (if b then x.toNat else 0)).toNat = if b then x.toNat else 0 := by
  cases b with
  | false => rfl
  | true => exact Nat.mod_eq_of_lt x.isLt

theorem headersPrio_of_priority (hprio : hasFlag flags p.flags.priority = true) :
    headersPrio p rd flags c = prioDecode rd c := if_pos hprio

/-- The priority block of a payload that is long enough for it (R175). -/
theorem headersPrio_ok (h : c.pos + (if hasFlag flags p.flags.priority then 5 else 0) ≤ c.stop) :
    headersPrio p rd flags c =
      .ok ⟨hasFlag flags p.flags.priority && (rd c.pos).getLsbD 7,
        if hasFlag flags p.flags.priority then
          BitVec.ofNat 31 (BE [rd c.pos, rd (c.pos + 1), rd (c.pos + 2), rd (c.pos + 3)]) else 0,
        if hasFlag flags p.flags.priority then rd (c.pos + 4) else 0,
        ⟨c.pos + if hasFlag flags p.flags.priority then 5 else 0, c.stop⟩⟩ := by
  cases hprio : hasFlag flags p.flags.priority with
  | false => simp [headersPrio, hprio]
  | true =>
    rw [hprio, if_pos rfl] at h
    have hrem : 5 ≤ c.remaining := Nat.le_sub_of_add_le' h
    rw [headersPrio_of_priority hprio, prioDecode_ok hrem, readU32at_top, readU32at_low]
    rfl

end Decoders

/-! ### PARSE_DATA -/

section Data

variable {p : Params} {fh : FrameHeader} {rd : Nat → Byte}

theorem parseData_streamZero (hsid : fh.streamID = 0) : parseData p fh rd = streamIdZero := if_pos hsid

variable (hsid : fh.streamID ≠ 0)
include hsid

theorem parseData_padError {o : CommandOutcome} (hpad : padDecode p rd fh.flags (Cursor.start fh.length) = .error o) :
    parseData p fh rd = o := by
  simp only [parseData, if_neg hsid, hpad]

variable {pad : PadField} (hpad : padDecode p rd fh.flags (Cursor.start fh.length) = .ok pad)
include hpad

theorem parseData_padTooLong (h : pad.cursor.remaining < pad.padLength.toNat) : parseData p fh rd = padTooLong := by
  simp only [parseData, if_neg hsid, hpad, if_pos h]

theorem parseData_frame (h : pad.padLength.toNat ≤ pad.cursor.remaining) :
    parseData p fh rd = .frame .data
      { contentOff := BitVec.ofNat 24 pad.cursor.pos
        contentLen := BitVec.ofNat 24 (pad.cursor.remaining - pad.padLength.toNat)
        padded := pad.padded
        padLen := pad.padLength
        streamEnded := hasFlag fh.flags p.flags.endStream } := by
  simp only [parseData, if_neg hsid, hpad, if_neg (Nat.not_lt.mpr h)]

end Data

theorem exec_parseData (s : State) : exec .parseData s = .next (s.finish (parseData s.params s.fh s.payloadByte)) := rfl

/-- Settles O15: the padding decoder answers by PADDED and the length, and then the pad is compared with what follows it. -/
theorem parseDataRule : Obligations.ParseDataRule := by
  intro s n pad ended defined
  have hpadded (hp : s.isPadded = true) (h1 : 1 ≤ n) :
      padDecode s.params s.payloadByte s.fh.flags (Cursor.start s.fh.length) = .ok ⟨true, s.payloadByte 0, ⟨1, n⟩⟩ :=
    padDecode_padded hp (Nat.not_lt.mpr h1)
  refine ⟨fun hsid hp => ?unpadded, fun hsid hp h1 hfits => ?padded, fun hsid => ?streamZero, fun hsid hp h0 => ?short,
    fun hsid hp h1 hlong => ?padTooLong, fun f hf => ?flags⟩
  case unpadded =>
    rw [exec_parseData, parseData_frame hsid (padDecode_unpadded hp) (Nat.zero_le _)]
    rfl
  case padded =>
    rw [exec_parseData, parseData_frame hsid (hpadded hp h1) hfits]
    rfl
  case streamZero =>
    rw [exec_parseData, parseData_streamZero hsid]
    rfl
  case short =>
    rw [exec_parseData, parseData_padError hsid (padDecode_start_short hp h0)]
    rfl
  case padTooLong =>
    rw [exec_parseData, parseData_padTooLong hsid (hpadded hp h1) hlong]
    rfl
  case flags =>
    have hpadded := hasFlag_congr (or_covers_right _ BitVec.and_self) hf
    have hended := hasFlag_congr (or_covers_left BitVec.and_self _) hf
    exact sameResult_withFlags exec_parseData (parseData_congr_flags _ hpadded hended)

/-! ### PARSE_HEADERS -/

section Headers

variable {p : Params} {fh : FrameHeader} {rd : Nat → Byte}

theorem parseHeaders_streamZero (hsid : fh.streamID = 0) : parseHeaders p fh rd = streamIdZero := if_pos hsid

variable (hsid : fh.streamID ≠ 0)
include hsid

theorem parseHeaders_padError {o : CommandOutcome} (hpad : padDecode p rd fh.flags (Cursor.start fh.length) = .error o) :
    parseHeaders p fh rd = o := by
  simp only [parseHeaders, if_neg hsid, hpad]

variable {pad : PadField} (hpad : padDecode p rd fh.flags (Cursor.start fh.length) = .ok pad)
include hpad

theorem parseHeaders_prioError {o : CommandOutcome} (hprio : headersPrio p rd fh.flags pad.cursor = .error o) :
    parseHeaders p fh rd = o := by
  simp only [parseHeaders, if_neg hsid, hpad, hprio]

variable {prio : PrioField} (hprio : headersPrio p rd fh.flags pad.cursor = .ok prio)
include hprio

/-- The fragment is empty, or the pad is longer than what is left for it (R174). -/
theorem parseHeaders_empty (h : prio.cursor.remaining ≤ pad.padLength.toNat) :
    parseHeaders p fh rd = .streamErr fh.streamID p.errProtocol .headersEmpty := by
  have hlen : (prio.cursor.remaining : Int) - (pad.padLength.toNat : Int) ≤ 0 := by omega
  simp only [parseHeaders, if_neg hsid, hpad, hprio, if_pos hlen]

theorem parseHeaders_frame (h : pad.padLength.toNat < prio.cursor.remaining) :
    parseHeaders p fh rd = .frame .headers
      { contentOff := BitVec.ofNat 24 prio.cursor.pos
        contentLen := BitVec.ofNat 24 (prio.cursor.remaining - pad.padLength.toNat)
        padded := pad.padded
        padLen := pad.padLength
        hasPrio := hasFlag fh.flags p.flags.priority
        prioExcl := prio.excl
        prioDep := prio.dep
        prioWeight := prio.weight
        headersEnded := hasFlag fh.flags p.flags.endHeaders
        streamEnded := hasFlag fh.flags p.flags.endStream } := by
  have hlen : ¬ (prio.cursor.remaining : Int) - (pad.padLength.toNat : Int) ≤ 0 := by omega
  simp only [parseHeaders, if_neg hsid, hpad, hprio, if_neg hlen, Int.toNat_sub]

end Headers

theorem exec_parseHeaders (s : State) :
    exec .parseHeaders s = .next (s.finish (parseHeaders s.params s.fh s.payloadByte)) := rfl

/-- Settles O16: the padding decoder, then the priority block, and then the length of the fragment decide. -/
theorem parseHeadersRule : Obligations.ParseHeadersRule := by
  intro s n o off pad b defined
  have hpad (h : o ≤ n) : padDecode s.params b s.fh.flags (Cursor.start s.fh.length) =
      .ok ⟨s.isPadded, BitVec.ofNat 8 pad, ⟨o, n⟩⟩ := padDecode_start h
  have hpadNat : (BitVec.ofNat 8 pad).toNat = pad := toNat_ofNat_pad ..
  have hoff : o ≤ off := Nat.le_add_right ..
  have hprio (h : off ≤ n) := headersPrio_ok (p := s.params) (rd := b) (flags := s.fh.flags) (c := ⟨o, n⟩) h
  refine ⟨fun hsid h => ?frame, fun hsid => ?streamZero, fun hsid hp h0 => ?padShort, fun hsid hp ho h => ?wordShort,
    fun hsid hp h => ?noWeight, fun hsid hn h => ?empty, fun f hf => ?flags⟩
  case frame =>
    have hlt : (BitVec.ofNat 8 pad).toNat < n - off := by rw [hpadNat]; omega
    rw [exec_parseHeaders, parseHeaders_frame hsid (hpad (by omega)) (hprio (by omega)) hlt, hpadNat]
    rfl
  case streamZero =>
    rw [exec_parseHeaders, parseHeaders_streamZero hsid]
    rfl
  case padShort =>
    rw [exec_parseHeaders, parseHeaders_padError hsid (padDecode_start_short hp h0)]
    rfl
  case wordShort =>
    have hshort : n - o < 4 := by omega
    rw [exec_parseHeaders, parseHeaders_prioError hsid (hpad ho) ((headersPrio_of_priority hp).trans (prioDecode_short hshort))]
    rfl
  case noWeight =>
    have hfour : n - o = 4 := by omega
    rw [exec_parseHeaders, parseHeaders_prioError hsid (hpad (by omega))
      ((headersPrio_of_priority hp).trans (prioDecode_noWeight hfour))]
    rfl
  case empty =>
    have hle : n - off ≤ (BitVec.ofNat 8 pad).toNat := by rw [hpadNat]; omega
    rw [exec_parseHeaders, parseHeaders_empty hsid (hpad (by omega)) (hprio hn) hle]
    rfl
  case flags =>
    have hprio := hasFlag_congr (or_covers_right _ BitVec.and_self) hf
    have hpadded := hasFlag_congr (or_covers_left (or_covers_right _ BitVec.and_self) _) hf
    have hheaders := hasFlag_congr (or_covers_left (or_covers_left (or_covers_right _ BitVec.and_self) _) _) hf
    have hended := hasFlag_congr (or_covers_left (or_covers_left (or_covers_left BitVec.and_self _) _) _) hf
    exact sameResult_withFlags exec_parseHeaders (parseHeaders_congr_flags _ hpadded hended hprio hheaders)

end Sys2Proof.Machine

/-! PROOFS (Priority and RstStream). PARSE_PRIORITY (O17) and PARSE_RST_STREAM (O18) in every outcome. -/

namespace Sys2Proof.Machine

/-! ### PARSE_PRIORITY -/

section Priority

variable {p : Params} {fh : FrameHeader} {rd : Nat → Byte}

/-- The stream ID is checked before the size (R186). -/
theorem parsePriority_streamZero (hsid : fh.streamID = 0) : parsePriority p fh rd = streamIdZero := if_pos hsid

variable (hsid : fh.streamID ≠ 0)
include hsid

theorem parsePriority_sizeError (hsize : fh.length.toNat ≠ 5) :
    parsePriority p fh rd = .connErr .frameSize .prioritySize fh.length.toNat 5 :=
  (if_neg hsid).trans (if_pos hsize)

/-- With five bytes the priority decoder has its word and its weight byte (R185). -/
theorem parsePriority_frame (hsize : fh.length.toNat = 5) :
    parsePriority p fh rd = .frame .priority
      { hasPrio := true
        prioExcl := (rd 0).getLsbD 7
        prioDep := BitVec.ofNat 31 (BE [rd 0, rd 1, rd 2, rd 3])
        prioWeight := rd 4 } := by
  have hrem : 5 ≤ (Cursor.start fh.length).remaining := hsize.ge
  simp only [parsePriority, if_neg hsid, if_neg (not_not.mpr hsize), prioDecode_ok hrem, readU32at_top, readU32at_low]
  rfl

end Priority

theorem exec_parsePriority (s : State) :
    exec .parsePriority s = .next (s.finish (parsePriority s.params s.fh s.payloadByte)) := rfl

/-- Settles O17: the stream ID decides, then the size; with five bytes the priority decoder cannot fail. -/
theorem parsePriorityRule : Obligations.ParsePriorityRule := by
  intro s n b
  refine ⟨fun hsid hsize => ?frame, fun hsid => ?streamZero, fun hsid hsize => ?size⟩
  case frame =>
    rw [exec_parsePriority, parsePriority_frame hsid hsize]
    rfl
  case streamZero =>
    rw [exec_parsePriority, parsePriority_streamZero hsid]
    rfl
  case size =>
    rw [exec_parsePriority, parsePriority_sizeError hsid hsize]
    rfl

/-! ### PARSE_RST_STREAM -/

section RstStream

variable {p : Params} {fh : FrameHeader} {rd : Nat → Byte}

/-- The code is the raw word, whichever check came first (R190, R191). -/
theorem parseRstStream_frame (hsid : fh.streamID ≠ 0) (hsize : fh.length.toNat = 4) :
    parseRstStream p fh rd = .frame .rstStream { rstCode := BitVec.ofNat 32 (BE [rd 0, rd 1, rd 2, rd 3]) } := by
  have hrem : ¬ (Cursor.start fh.length).remaining < 4 := Nat.not_lt.mpr hsize.ge
  simp only [parseRstStream, decide_eq_false hsid, decide_eq_false (not_not.mpr hsize), readU32_ok hrem]
  cases p.rstCheckOrder with
  | sizeFirst => rfl
  | idFirst => rfl

/-- The stream-ID error is raised when the size is right, or when the stream ID is checked first. -/
theorem parseRstStream_streamZero (hsid : fh.streamID = 0)
    (hfirst : fh.length.toNat = 4 ∨ p.rstCheckOrder = .idFirst) : parseRstStream p fh rd = streamIdZero := by
  simp only [parseRstStream, decide_eq_true hsid]
  cases horder : p.rstCheckOrder with
  | sizeFirst =>
    have hsize : fh.length.toNat = 4 := hfirst.resolve_right (horder ▸ RstCheckOrder.noConfusion)
    rw [decide_eq_false (not_not.mpr hsize)]
    rfl
  | idFirst => rfl

/-- The frame-size error is raised when the stream ID is right, or when the size is checked first. -/
theorem parseRstStream_sizeError (hsize : fh.length.toNat ≠ 4)
    (hfirst : fh.streamID ≠ 0 ∨ p.rstCheckOrder = .sizeFirst) :
    parseRstStream p fh rd = .connErr .frameSize .rstSize fh.length.toNat 4 := by
  simp only [parseRstStream, decide_eq_true hsize]
  cases horder : p.rstCheckOrder with
  | sizeFirst => rfl
  | idFirst =>
    have hsid : fh.streamID ≠ 0 := hfirst.resolve_right (horder ▸ RstCheckOrder.noConfusion)
    rw [decide_eq_false hsid]
    rfl

end RstStream

theorem exec_parseRstStream (s : State) :
    exec .parseRstStream s = .next (s.finish (parseRstStream s.params s.fh s.payloadByte)) := rfl

/-- Settles O18: one failed check raises its own error under either order, and of two the first one raises it. -/
theorem parseRstStreamRule : Obligations.ParseRstStreamRule := by
  intro s n b
  have streamZero (hsid : s.fh.streamID = 0) (hfirst : n = 4 ∨ s.params.rstCheckOrder = .idFirst) :
      exec .parseRstStream s = .next (s.ends (protocolError s.params .streamIdZero)) := by
    rw [exec_parseRstStream, parseRstStream_streamZero hsid hfirst]
    rfl
  have sizeError (hsize : n ≠ 4) (hfirst : s.fh.streamID ≠ 0 ∨ s.params.rstCheckOrder = .sizeFirst) :
      exec .parseRstStream s = .next (s.ends (frameSizeError s.params .rstSize n 4)) := by
    rw [exec_parseRstStream, parseRstStream_sizeError hsize hfirst]
    rfl
  refine ⟨fun hsid hsize => ?frame, fun hsid hsize => streamZero hsid (.inl hsize),
    fun hsid hsize => sizeError hsize (.inl hsid), fun _ hsize horder => sizeError hsize (.inr horder),
    fun hsid _ horder => streamZero hsid (.inr horder)⟩
  rw [exec_parseRstStream, parseRstStream_frame hsid hsize]
  rfl

end Sys2Proof.Machine

/-! PROOFS (Settings and PushPromise). PARSE_SETTINGS (O19) and PARSE_PUSH_PROMISE (O20) in every outcome. -/

namespace Sys2Proof.Machine

/-! ### PARSE_SETTINGS -/

section Settings

variable {p : Params} {fh : FrameHeader} {rd : Nat → Byte}

theorem parseSettings_reject (hrem : fh.length.toNat % 6 ≠ 0) (hpolicy : p.settingsPartial = .reject) :
    parseSettings p fh rd =
      .connErr .frameSize .settingsPartial fh.length.toNat (fh.length.toNat - fh.length.toNat % 6) :=
  if_pos ⟨hrem, hpolicy⟩

/-- Without trailing bytes, or where they are ignored, the payload is cut into its whole entries (R200, R202). -/
theorem parseSettings_frame (h : fh.length.toNat % 6 = 0 ∨ p.settingsPartial = .truncate) :
    parseSettings p fh rd = .frame .settings
      { setCount := BitVec.ofNat 22 (fh.length.toNat / 6)
        setRem := BitVec.ofNat 3 (fh.length.toNat % 6)
        ack := hasFlag fh.flags p.flags.ack } := by
  refine if_neg fun ⟨hrem, hreject⟩ => ?_
  have htruncate : p.settingsPartial = .truncate := h.resolve_left hrem
  exact SettingsPartial.noConfusion (htruncate.symm.trans hreject)

theorem parseSettings_congr_flags {f : Byte} (hack : hasFlag f p.flags.ack = hasFlag fh.flags p.flags.ack) :
    parseSettings p { fh with flags := f } rd = parseSettings p fh rd := by
  simp only [parseSettings, hack]

end Settings

/-- SET_COUNT and SET_REM are wide enough for every payload length (log 17). -/
theorem settingsSizes_toNat (n : BitVec 24) :
    (BitVec.ofNat 22 (n.toNat / 6)).toNat = n.toNat / 6 ∧ (BitVec.ofNat 3 (n.toNat % 6)).toNat = n.toNat % 6 := by
  have hn := n.isLt
  exact ⟨Nat.mod_eq_of_lt (by omega), Nat.mod_eq_of_lt (by omega)⟩

theorem exec_parseSettings (s : State) :
    exec .parseSettings s = .next (s.finish (parseSettings s.params s.fh s.payloadByte)) := rfl

/-- Settles O19: the entries are only counted, and the policy matters for a remainder only. -/
theorem parseSettingsRule : Obligations.ParseSettingsRule := by
  intro s n defined
  refine ⟨fun h => ?frame, fun hrem hpolicy => ?reject, fun f hf => ?flags⟩
  case frame =>
    obtain ⟨hcount, hrem⟩ := settingsSizes_toNat s.fh.length
    rw [exec_parseSettings, parseSettings_frame h]
    exact ⟨_, rfl, rfl, rfl, hcount, hrem, rfl, rfl⟩
  case reject =>
    rw [exec_parseSettings, parseSettings_reject hrem hpolicy]
    rfl
  case flags =>
    exact sameResult_withFlags exec_parseSettings (parseSettings_congr_flags (hasFlag_congr BitVec.and_self hf))

/-! ### PARSE_PUSH_PROMISE -/

section PushPromise

variable {p : Params} {fh : FrameHeader} {rd : Nat → Byte}

theorem parsePushPromise_congr_flags {f : Byte} (hpadded : hasFlag f p.flags.padded = hasFlag fh.flags p.flags.padded)
    (hheaders : hasFlag f p.flags.endHeaders = hasFlag fh.flags p.flags.endHeaders) :
    parsePushPromise p { fh with flags := f } rd = parsePushPromise p fh rd := by
  simp only [parsePushPromise, padDecode_congr_flags rd hpadded, hheaders]

theorem parsePushPromise_streamZero (hsid : fh.streamID = 0) : parsePushPromise p fh rd = streamIdZero := if_pos hsid

variable (hsid : fh.streamID ≠ 0)
include hsid

theorem parsePushPromise_padError {o : CommandOutcome}
    (hpad : padDecode p rd fh.flags (Cursor.start fh.length) = .error o) : parsePushPromise p fh rd = o := by
  simp only [parsePushPromise, if_neg hsid, hpad]

variable {pad : PadField} (hpad : padDecode p rd fh.flags (Cursor.start fh.length) = .ok pad)
include hpad

theorem parsePushPromise_wordShort (h : pad.cursor.remaining < 4) :
    parsePushPromise p fh rd = .transport .fieldShort pad.cursor.remaining 4 := by
  simp only [parsePushPromise, if_neg hsid, hpad, readU32_short h]

/-- The pad is compared with what follows the promised-stream-ID word (R212). -/
theorem parsePushPromise_padTooLong (h4 : 4 ≤ pad.cursor.remaining)
    (h : (⟨pad.cursor.pos + 4, pad.cursor.stop⟩ : Cursor).remaining < pad.padLength.toNat) :
    parsePushPromise p fh rd = padTooLong := by
  simp only [parsePushPromise, if_neg hsid, hpad, readU32_ok (Nat.not_lt.mpr h4), if_pos h]

theorem parsePushPromise_frame (h4 : 4 ≤ pad.cursor.remaining)
    (h : pad.padLength.toNat ≤ (⟨pad.cursor.pos + 4, pad.cursor.stop⟩ : Cursor).remaining) :
    parsePushPromise p fh rd = .frame .pushPromise
      { contentOff := BitVec.ofNat 24 (pad.cursor.pos + 4)
        contentLen := BitVec.ofNat 24 (pad.cursor.stop - (pad.cursor.pos + 4) - pad.padLength.toNat)
        padded := pad.padded
        padLen := pad.padLength
        promisedSid := (readU32at rd pad.cursor.pos).setWidth 31
        headersEnded := hasFlag fh.flags p.flags.endHeaders } := by
  simp only [parsePushPromise, if_neg hsid, hpad, readU32_ok (Nat.not_lt.mpr h4), if_neg (Nat.not_lt.mpr h)]
  rfl

end PushPromise

theorem exec_parsePushPromise (s : State) :
    exec .parsePushPromise s = .next (s.finish (parsePushPromise s.params s.fh s.payloadByte)) := rfl

/-- Settles O20: the padding decoder, then the promised-stream-ID word, and then the pad against what follows the word decide. -/
theorem parsePushPromiseRule : Obligations.ParsePushPromiseRule := by
  intro s n o pad b defined
  have hpad (h : o ≤ n) : padDecode s.params b s.fh.flags (Cursor.start s.fh.length) =
      .ok ⟨s.isPadded, BitVec.ofNat 8 pad, ⟨o, n⟩⟩ := padDecode_start h
  have hpadNat : (BitVec.ofNat 8 pad).toNat = pad := toNat_ofNat_pad ..
  refine ⟨fun hsid h => ?frame, fun hsid => ?streamZero, fun hsid hp h0 => ?padShort, fun hsid ho h => ?wordShort,
    fun hsid h4 h => ?padTooLong, fun f hf => ?flags⟩
  case frame =>
    have hword : 4 ≤ n - o := by omega
    have hfits : (BitVec.ofNat 8 pad).toNat ≤ n - (o + 4) := by rw [hpadNat]; omega
    rw [exec_parsePushPromise, parsePushPromise_frame hsid (hpad (by omega)) hword hfits, readU32at_low, hpadNat]
    rfl
  case streamZero =>
    rw [exec_parsePushPromise, parsePushPromise_streamZero hsid]
    rfl
  case padShort =>
    rw [exec_parsePushPromise, parsePushPromise_padError hsid (padDecode_start_short hp h0)]
    rfl
  case wordShort =>
    have hshort : n - o < 4 := by omega
    rw [exec_parsePushPromise, parsePushPromise_wordShort hsid (hpad ho) hshort]
    rfl
  case padTooLong =>
    have hword : 4 ≤ n - o := by omega
    have hlong : n - (o + 4) < (BitVec.ofNat 8 pad).toNat := by rw [hpadNat]; omega
    rw [exec_parsePushPromise, parsePushPromise_padTooLong hsid (hpad (by omega)) hword hlong]
    rfl
  case flags =>
    have hpadded := hasFlag_congr (or_covers_right _ BitVec.and_self) hf
    have hheaders := hasFlag_congr (or_covers_left BitVec.and_self _) hf
    exact sameResult_withFlags exec_parsePushPromise (parsePushPromise_congr_flags hpadded hheaders)

end Sys2Proof.Machine

/-! PROOFS (the Settings mapping). The lookup is the mapping (O40), the mapping's law (O41), and what the host reads of it (O42). -/

namespace Sys2Proof.Machine

/-! ### Association lists and `settingsPut` (R201) -/

section Keys

variable {m : List (BitVec 16 × Word)} {id k : BitVec 16} {v : Word}

/-- With one entry a key, an entry is in the list exactly when the lookup finds it. -/
theorem mem_iff_lookup_of_nodup_keys (h : (m.map Prod.fst).Nodup) : (id, v) ∈ m ↔ m.lookup id = some v := by
  refine ⟨fun hmem => ?_, fun hlookup => ?_⟩
  · obtain ⟨before, after, rfl⟩ := List.append_of_mem hmem
    rw [List.map_append, List.map_cons, List.nodup_append] at h
    obtain ⟨-, -, hdisjoint⟩ := h
    refine List.lookup_eq_some_iff.mpr ⟨before, after, rfl, fun x hx => ?_⟩
    exact bne_iff_ne.mpr (hdisjoint _ (List.mem_map_of_mem hx) _ List.mem_cons_self).symm
  · obtain ⟨before, after, rfl, -⟩ := List.lookup_eq_some_iff.mp hlookup
    exact List.mem_append_right _ List.mem_cons_self

theorem lookup_cons_eq_ite {w : Word} : ((k, w) :: m).lookup id = if k = id then some w else m.lookup id := by
  by_cases h : k = id
  · rw [if_pos h, h, List.lookup_cons_self]
  · have hne : (id == k) = false := beq_false_of_ne (Ne.symm h)
    rw [if_neg h, List.lookup_cons, hne]

/-- What is put is found under its own ID, and under every other ID what was there. -/
theorem lookup_settingsPut : (settingsPut m id v).lookup k = if id = k then some v else m.lookup k := by
  induction m with
  | nil => exact lookup_cons_eq_ite
  | cons x m ih =>
    obtain ⟨key, w⟩ := x
    rw [settingsPut, lookup_cons_eq_ite]
    split
    · next hkey =>
      rw [lookup_cons_eq_ite, hkey]
      split_ifs <;> rfl
    · next hkey =>
      rw [lookup_cons_eq_ite, ih]
      split_ifs with hk hid
      · exact absurd (hk.trans hid.symm) hkey
      all_goals rfl

/-- A new ID goes to the end, and a known one keeps its place. -/
theorem keys_settingsPut : (settingsPut m id v).map Prod.fst =
    if id ∈ m.map Prod.fst then m.map Prod.fst else m.map Prod.fst ++ [id] := by
  induction m with
  | nil => rfl
  | cons x m ih =>
    obtain ⟨key, w⟩ := x
    rw [settingsPut, List.map_cons]
    split
    · next hkey => rw [if_pos (hkey ▸ List.mem_cons_self), List.map_cons]
    · next hkey =>
      have hmem : id ∈ key :: m.map Prod.fst ↔ id ∈ m.map Prod.fst := List.mem_cons.trans (or_iff_right (Ne.symm hkey))
      simp only [List.map_cons, ih, hmem]
      split_ifs <;> rfl

theorem mem_keys_settingsPut : k ∈ (settingsPut m id v).map Prod.fst ↔ k ∈ m.map Prod.fst ∨ k = id := by
  rw [keys_settingsPut]
  split
  · next h => exact (or_iff_left_of_imp (· ▸ h)).symm
  · rw [List.mem_append, List.mem_singleton]

theorem nodup_keys_settingsPut (h : (m.map Prod.fst).Nodup) : ((settingsPut m id v).map Prod.fst).Nodup := by
  rw [keys_settingsPut]
  split
  · exact h
  · next hnew =>
    refine List.nodup_append.mpr ⟨h, List.nodup_singleton _, fun a ha b hb heq => ?_⟩
    exact hnew (List.mem_singleton.mp hb ▸ heq ▸ ha)

end Keys

/-! ### The mapping of R201 and the lookup of R206 -/

section Mapping

variable (rd : Nat → Byte)

theorem nodup_keys_settingsMap (k : Nat) : ((settingsMap rd k).map Prod.fst).Nodup := by
  induction k with
  | zero => exact List.nodup_nil
  | succ k ih => exact nodup_keys_settingsPut ih

/-- The IDs of the mapping are those of the entries. -/
theorem mem_keys_settingsMap {k : Nat} {id : BitVec 16} :
    id ∈ (settingsMap rd k).map Prod.fst ↔ id ∈ (List.range k).map (settingId rd) := by
  induction k with
  | zero => rfl
  | succ k ih =>
    rw [settingsMap, mem_keys_settingsPut, ih, List.range_succ, List.map_append, List.mem_append, List.map_singleton,
      List.mem_singleton]

theorem keys_settingsMap_perm (k : Nat) :
    ((settingsMap rd k).map Prod.fst).Perm ((List.range k).map (settingId rd)).dedup :=
  (List.perm_ext_iff_of_nodup (nodup_keys_settingsMap rd k) (List.nodup_dedup _)).mpr fun _ =>
    (mem_keys_settingsMap rd).trans List.mem_dedup.symm

theorem length_settingsMap (k : Nat) :
    (settingsMap rd k).length = ((List.range k).map (settingId rd)).dedup.length := by
  rw [← (keys_settingsMap_perm rd k).length_eq, List.length_map]

/-- The lookup finds the value of the last entry with the ID, and nothing else. -/
theorem settingsLookup_eq_some_iff {k : Nat} {id : BitVec 16} {v : Word} : settingsLookup rd k id = some v ↔
    ∃ i, i < k ∧ settingId rd i = id ∧ settingValue rd i = v ∧ ∀ j, i < j → j < k → settingId rd j ≠ id := by
  induction k with
  | zero => exact ⟨nofun, fun ⟨_, hi, _⟩ => absurd hi (Nat.not_lt_zero _)⟩
  | succ k ih =>
    rw [settingsLookup]
    split
    · next hlast =>
      refine ⟨fun hv => ⟨k, k.lt_succ_self, hlast, Option.some.inj hv, by omega⟩, fun ⟨i, hi, hid, hv, hafter⟩ => ?_⟩
      obtain rfl : i = k := by
        by_contra hne
        exact hafter k (by omega) k.lt_succ_self hlast
      rw [hv]
    · next hlast =>
      rw [ih]
      refine exists_congr fun i => ⟨fun ⟨hi, hid, hv, hafter⟩ => ?_, fun ⟨hi, hid, hv, hafter⟩ => ?_⟩
      · exact ⟨Nat.lt_succ_of_lt hi, hid, hv, fun j hij hj =>
          (Nat.lt_succ_iff_lt_or_eq.mp hj).elim (hafter j hij) (· ▸ hlast)⟩
      · have hne : i ≠ k := fun hik => hlast (hik ▸ hid)
        exact ⟨by omega, hid, hv, fun j hij hj => hafter j hij (Nat.lt_succ_of_lt hj)⟩

theorem settingsLookup_eq_none {k : Nat} {id : BitVec 16} (h : ∀ i, i < k → settingId rd i ≠ id) :
    settingsLookup rd k id = none := by
  refine Option.eq_none_iff_forall_ne_some.mpr fun v hv => ?_
  obtain ⟨i, hi, hid, -⟩ := (settingsLookup_eq_some_iff rd).mp hv
  exact h i hi hid

end Mapping

/-- Settles O40: by induction on the number of entries; the last entry put is the first one asked. -/
theorem settingsLookupIsTheMapping : Obligations.SettingsLookupIsTheMapping := by
  intro rd k id
  induction k with
  | zero => rfl
  | succ k ih => rw [settingsLookup, settingsMap, lookup_settingsPut, ih]

/-- Settles O41: putting an entry keeps one entry an ID, so that membership is the lookup and the keys are the distinct IDs. -/
theorem settingsMappingLaw : Obligations.SettingsMappingLaw := by
  intro rd k
  refine ⟨nodup_keys_settingsMap rd k, fun id v => ?entry, length_settingsMap rd k, fun hdistinct => ?distinct⟩
  case entry =>
    rw [mem_iff_lookup_of_nodup_keys (nodup_keys_settingsMap rd k), ← settingsLookupIsTheMapping, settingsLookup_eq_some_iff]
  case distinct =>
    have hnodup : ((List.range k).map (settingId rd)).Nodup := by
      refine List.Nodup.map_on (fun i hi j hj heq => ?_) List.nodup_range
      rw [List.mem_range] at hi hj
      rcases Nat.lt_trichotomy i j with h | h | h
      · exact absurd heq (hdistinct i j h hj)
      · exact h
      · exact absurd heq.symm (hdistinct j i h hi)
    rw [length_settingsMap, hnodup.dedup, List.length_map, List.length_range]

/-! ### What the host reads (R206) -/

/-- A big-endian value fits the width of its bytes (R61). -/
theorem toNat_ofNat_BE {w : Nat} {bs : List Byte} (h : 8 * bs.length = w) : (BitVec.ofNat w (BE bs)).toNat = BE bs := by
  obtain ⟨-, hlt⟩ := bigEndianIsTheSum.1 bs
  rw [BitVec.toNat_ofNat, ← h, Nat.mod_eq_of_lt hlt]

/-- An entry's ID and value hold all bits of their bytes (R61, R200). -/
theorem settingId_toNat (rd : Nat → Byte) (i : Nat) : (settingId rd i).toNat = BE [rd (6 * i), rd (6 * i + 1)] :=
  toNat_ofNat_BE rfl

theorem settingValue_toNat (rd : Nat → Byte) (i : Nat) :
    (settingValue rd i).toNat = BE [rd (6 * i + 2), rd (6 * i + 3), rd (6 * i + 4), rd (6 * i + 5)] :=
  toNat_ofNat_BE rfl

section Query

variable {s : State}

theorem sqLookup_settings (h : s.res.resKind = .frame ∧ s.res.frameKind = .settings) :
    s.sqLookup = settingsLookup s.payloadByte s.res.frame.setCount.toNat s.sqId := if_pos h

theorem sqLookup_eq_none (h : ¬ (s.res.resKind = .frame ∧ s.res.frameKind = .settings) ∨
    ∀ i, i < s.res.frame.setCount.toNat → settingId s.payloadByte i ≠ s.sqId) : s.sqLookup = none := by
  by_cases hsettings : s.res.resKind = .frame ∧ s.res.frameKind = .settings
  · exact (sqLookup_settings hsettings).trans (settingsLookup_eq_none _ (h.resolve_left (not_not.mpr hsettings)))
  · exact if_neg hsettings

/-- Both registers are read off the lookup. -/
theorem settingsQuery_reads :
    (s.regRead 0x04).getLsbD 18 = s.sqLookup.isSome ∧ s.regRead 0x4C = s.sqLookup.getD 0 := by
  obtain ⟨-, -, -, -, -, -, -, hpresent, -⟩ := statusWord_fields s
  have hvalue : s.sqValue = s.sqLookup.getD 0 := by
    unfold State.sqValue
    cases s.sqLookup <;> rfl
  exact ⟨hpresent, hvalue⟩

end Query

/-- Settles O42: both registers are read off the lookup, which finds the last entry, and is the mapping. -/
theorem settingsQueryRegisters : Obligations.SettingsQueryRegisters := by
  intro s settings k b id value
  obtain ⟨hpresent, hvalue⟩ := settingsQuery_reads (s := s)
  have hid (i : Nat) : id i = s.sqId.toNat ↔ settingId b i = s.sqId := by
    rw [← BitVec.toNat_inj, settingId_toNat]
  rw [hpresent, hvalue]
  refine ⟨fun i hsettings hi hfound hlast => ?found, fun h => ?absent, fun hsettings => ?mapping⟩
  case found =>
    have hlookup : s.sqLookup = some (settingValue b i) := (sqLookup_settings hsettings).trans <|
      (settingsLookup_eq_some_iff b).mpr
        ⟨i, hi, (hid i).mp hfound, rfl, fun j hij hj => mt (hid j).mpr (hlast j hij hj)⟩
    rw [hlookup]
    exact ⟨rfl, settingValue_toNat b i⟩
  case absent =>
    rw [sqLookup_eq_none (h.imp_right fun h i hi => mt (hid i).mpr (h i hi))]
    exact ⟨rfl, rfl⟩
  case mapping =>
    rw [sqLookup_settings hsettings, settingsLookupIsTheMapping]
    exact ⟨rfl, rfl⟩

end Sys2Proof.Machine

/-! PROOFS (PassThrough). The PASS_UNPARSED targets and PASS_UNKNOWN in every state (O21). -/

namespace Sys2Proof.Machine

/-- Every other result field of the view of the whole payload is 0 (R236). -/
theorem finish_passFrame (s : State) (kind : FrameKind) :
    s.finish (passFrame kind s.fh) = s.ends (frameResult kind { contentOff := 0, contentLen := s.fh.length }) := rfl

/-- The four PASS_UNPARSED targets have one meaning (R226). -/
theorem exec_passUnparsed {i : Instr}
    (hi : i ∈ [Instr.passUnparsedPing, .passUnparsedGoaway, .passUnparsedWindowUpdate, .passUnparsedContinuation])
    (s : State) : exec i s = .next (s.finish (passFrame .unparsed s.fh)) := by
  simp only [List.mem_cons, List.not_mem_nil, or_false] at hi
  rcases hi with rfl | rfl | rfl | rfl <;> rfl

/-- PASS_UNKNOWN does not look at the type byte that it carries (R227). -/
theorem exec_passUnknown (t : Byte) (s : State) :
    exec (.passUnknown t) s = .next (s.finish (passFrame .unknown s.fh)) := rfl

/-- Settles O21: each target raises the view of the whole payload, of its own frame kind, and no check comes before it. -/
theorem passThroughRule : Obligations.PassThroughRule := by
  intro s
  refine ⟨fun i hi => ?unparsed, fun t => ?unknown⟩
  case unparsed => rw [exec_passUnparsed hi, finish_passFrame]
  case unknown => rw [exec_passUnknown, finish_passFrame]

end Sys2Proof.Machine

/-! PROOFS (Taxonomy). The error taxonomy encoder row by row (O22) and the display name of every ErrCode (O60). -/

namespace Sys2Proof.Machine

/-! ### The encoder (R236) -/

/-- Settles O22: each row is a branch of the encoder; the class gives FRAME_SIZE and the code of the two connection errors, and
a size that is 0 stays 0 in its 24 bits. -/
theorem outcomeEncoderTable : Obligations.OutcomeEncoderTable :=
  fun _ => ⟨fun _ => rfl, fun _ => rfl, fun _ _ => rfl, fun _ => rfl, fun _ _ _ => rfl, fun _ _ _ => rfl, fun _ _ _ => rfl⟩

/-! ### The digits of a word -/

/-- The number that a list of hexadecimal digits writes, most significant first. -/
def hexValue (ds : List Nat) : Nat := ds.foldl (fun acc x => acc * 16 + x) 0

theorem hexDigits_lt (v : Word) : ∀ x ∈ hexDigits v, x < 16 := by
  intro x hx
  obtain ⟨k, -, rfl⟩ := List.mem_map.mp hx
  exact (v.extractLsb' k 4).isLt

/-- The eight digits write the word itself. -/
theorem hexValue_hexDigits (v : Word) : hexValue (hexDigits v) = v.toNat := by
  have hv : v.toNat < 2 ^ 32 := v.isLt
  simp only [hexValue, hexDigits, List.map_cons, List.map_nil, List.foldl_cons, List.foldl_nil,
    BitVec.extractLsb'_toNat, Nat.shiftRight_eq_div_pow]
  omega

/-- Leading zeros do not change the number written. -/
theorem hexValue_dropWhile_zero (ds : List Nat) : hexValue (ds.dropWhile (· == 0)) = hexValue ds := by
  induction ds with
  | nil => rfl
  | cons d ds ih =>
    by_cases hd : d = 0
    · subst hd
      exact ih
    · rw [List.dropWhile_cons_of_neg (by simpa using hd)]

/-- Without leading zeros, the digits of a number that is not 0 begin with a digit that is not 0. -/
theorem dropWhile_zero_eq_cons {ds : List Nat} (h : hexValue ds ≠ 0) :
    ∃ d ds', ds.dropWhile (· == 0) = d :: ds' ∧ d ≠ 0 := by
  cases hdrop : ds.dropWhile (· == 0) with
  | nil =>
    rw [← hexValue_dropWhile_zero, hdrop] at h
    exact absurd rfl h
  | cons d ds' =>
    have hhead := List.head_dropWhile_not (p := (· == 0)) (l := ds) (by simp [hdrop])
    exact ⟨d, ds', rfl, by simpa [hdrop] using hhead⟩

theorem hexDigit_eq_getD {x : Nat} (h : x < 16) :
    hexDigit x = ['0', '1', '2', '3', '4', '5', '6', '7', '8', '9', 'a', 'b', 'c', 'd', 'e', 'f'].getD x '?' := by
  revert x
  decide

/-! ### The display names (R246) -/

theorem errCodeName_eq_of_getElem? {c : Word} {name : String} (h : errCodeNames[c.toNat]? = some name) :
    errCodeName c = name := by
  simp only [errCodeName, h]

theorem errCodeName_eq_hexText {c : Word} (h : 14 ≤ c.toNat) :
    errCodeName c = "unknown error code 0x" ++ hexText c := by
  have hnone : errCodeNames[c.toNat]? = none := List.getElem?_eq_none h
  simp only [errCodeName, hnone]

/-- Settles O60: the fourteen names stand in the list at their codes; every other code has the digits of its word without the
leading zeros, and they still write the code. -/
theorem errCodeDisplayNames : Obligations.ErrCodeDisplayNames := by
  refine ⟨?_, ?_, ?_, ?_, ?_, ?_, ?_, ?_, ?_, ?_, ?_, ?_, ?_, ?_, fun c hc => ?unlisted⟩
  case unlisted =>
    have hvalue := hexValue_hexDigits c
    obtain ⟨d, ds, hdrop, hd⟩ := dropWhile_zero_eq_cons (ds := hexDigits c) (by omega)
    have hlt : ∀ x ∈ d :: ds, x < 16 := fun x hx =>
      hexDigits_lt c x ((List.dropWhile_sublist _).mem (hdrop ▸ hx))
    refine ⟨d, ds, hd, hlt, ?number, ?text⟩
    case number =>
      calc hexValue (d :: ds)
        _ = hexValue (hexDigits c) := by rw [← hdrop, hexValue_dropWhile_zero]
        _ = c.toNat := hvalue
    case text =>
      rw [errCodeName_eq_hexText hc, hexText, hdrop, List.map_congr_left fun x hx => hexDigit_eq_getD (hlt x hx)]
  all_goals exact errCodeName_eq_of_getElem? rfl

end Sys2Proof.Machine

/-! PROOFS (exceptions and hazards). Reset (O57) and its invariant (O54), and the instances of a platform (O59). -/

namespace Sys2Proof.Machine

/-! ### A step of one instance of a platform (R274) -/

/-- `Platform.put` replaces a state in its slot, so the library's lemmas about `List.modify` apply. -/
theorem Platform.put_eq_modify (p : Platform) (k : Nat) (s : State) :
    p.put k s = p.modify k fun x => { x with inst := s } := by
  induction p generalizing k with
  | nil => cases k <;> rfl
  | cons x p ih =>
    cases k with
    | zero => rfl
    | succ k => exact congrArg (x :: ·) (ih k)

/-- A platform's step that answers a next platform is a step of the chosen instance, put back in its slot. -/
theorem Platform.step_next_cases {p q : Platform} {k : Nat} (h : p.step k = some (.next q)) :
    ∃ x s, p[k]? = some x ∧ Machine.step x.inst = .next s ∧ q = p.put k s := by
  unfold Platform.step at h
  split at h
  case h_1 => cases h
  case h_2 x hx =>
    split at h
    case h_1 s hs =>
      cases h
      exact ⟨x, s, hx, hs, rfl⟩
    case h_2 => cases h
    case h_3 => cases h

/-- Settles O59: the step modifies the list of instances at `k` only, and there only the state. -/
theorem instancesAreIndependent : Obligations.InstancesAreIndependent := by
  intro p q k h
  obtain ⟨x, s, hx, hs, rfl⟩ := Platform.step_next_cases h
  rw [Platform.put_eq_modify]
  refine ⟨List.length_modify .., fun j hj => List.getElem?_modify_ne _ _ hj.symm, x, { x with inst := s }, hx, ?_, hs, rfl⟩
  rw [List.getElem?_modify_eq, hx]
  rfl

/-! ### Reset (R285) -/

/-- Settles O54: the invariant does not speak of the reset count, the one field in which power-on and a reset pulse differ. -/
theorem resetHasTheInvariant : Obligations.ResetHasTheInvariant := fun p =>
  (State.resetPulse_inv { State.reset with params := p }).frame (resetEpoch := 0) ..

section Table

variable {s : State} (hphase : s.phase = .idle) (hfh : s.fh = ⟨0, 0, 0, 0⟩) (henc : s.enc = Bytes9.zero) (hsqId : s.sqId = 0)
  (hres : s.res = {}) (hrejected : s.cmdRejected = false)
include hphase hfh henc hsqId hres hrejected

/-- With the fields of the reset table at their values, the Settings lookup finds no Settings frame, and every other field that
a register shows is 0. -/
theorem regValue_eq_zero (r : Reg) : s.regValue r = 0 := by
  have hlookup : s.sqLookup = none := sqLookup_eq_none (.inl fun h => by simp [hres] at h)
  have hstatus : s.statusWord = 0 := by
    simp [State.statusWord, State.sqPresent, hlookup, hphase, hres, hrejected, Phase.code, ResKind.code, FrameKind.code,
      Reason.code, Action.code]
  have hprio : s.prioWord = 0 := by simp [State.prioWord, hres]
  have hfflags : s.fflagsWord = 0 := by simp [State.fflagsWord, hres]
  have hsetInfo : s.setInfoWord = 0 := by simp [State.setInfoWord, hres]
  have hsqValue : s.sqValue = 0 := by simp [State.sqValue, hlookup]
  cases r <;> simp [State.regValue, hstatus, hprio, hfflags, hsetInfo, hsqValue, hfh, henc, hsqId, hres, Bytes9.zero]

theorem regRead_eq_zero_of_reset (off : Nat) : s.regRead off = 0 := by
  cases hr : regAt off with
  | none => exact regRead_unlisted hr
  | some r =>
    rw [State.regRead, hr]
    exact regValue_eq_zero hphase hfh henc hsqId hres hrejected r

end Table

/-- A reset event is taken in any state. -/
theorem step_reset {s : State} {rest : List Event} (hin : s.inputs = .reset :: rest) : step s = .next s.popped.resetPulse :=
  step_cons hin

/-- Settles O57: power-on and reset both leave the fields of the reset table at their values. -/
theorem resetRule : Obligations.ResetRule := by
  refine ⟨fun _ => regRead_eq_zero_of_reset rfl rfl rfl rfl rfl rfl, fun s rest hin => ⟨s.popped.resetPulse, step_reset hin, ?_⟩⟩
  exact ⟨regRead_eq_zero_of_reset rfl rfl rfl rfl rfl rfl, rfl, rfl, rfl, rfl, rfl, rfl, rfl, rfl, rfl, rfl, rfl, rfl, rfl⟩

end Sys2Proof.Machine
